-- ==== Sys2Proof/Word.lean ====
section
/-!
DEFINITION. The K16's value widths (00_scope.md R11).
-/

namespace Sys2Proof

/-- A byte: 8 bits (R18). -/
abbrev Byte := BitVec 8

/-- A word: 16 bits (R18). -/
abbrev Word := BitVec 16

/-- A byte address: 24 bits (R50). -/
abbrev Addr := BitVec 24

/-- IMM5: "a 5-bit unsigned immediate, 0 to 31, inside the instruction word" (R18). -/
abbrev Imm5 := BitVec 5

end Sys2Proof
end

