-- ==== Sys2Proof/Config.lean ====
section
/-!
DEFINITION. What the spec leaves open. A parameter whose default the spec chose is a field of `Config` (00_scope.md R8:
"A model takes each as a field of its configuration"): the machine holds one `Config`, which no step changes, and
Machine/Defaults.lean has the defaults. What the spec calls a draw (R16, "a model takes the value as a free input under
no law") or an OPEN parameter (92_eei_decisions.md) is a constant with no body, so nothing can be proved of the value it
gives.
-/

namespace Sys2Proof.Machine

/-- Four like registers, numbered 0 to 3 (R20 to R22). -/
structure Quad (α : Type) where
  r0 : α
  r1 : α
  r2 : α
  r3 : α
deriving DecidableEq, Repr

end Sys2Proof.Machine

namespace Sys2Proof

/-! ### The memory map: `MEM_MAP` (R52, decision D33) -/

/-- The kinds of access that the map tells apart (R52, "per address and per kind of access"). A stack access, the vector's
read and a table's read are loads and stores. -/
inductive Access
  | fetch
  | load
  | store
deriving DecidableEq, Repr

/-- What an address is for a kind of access (R52): RAM returns the last value written, ROM returns its image and refuses
stores, a device answers reads with a draw and takes stores as output events, none refuses the access. -/
inductive MemKind
  | ram
  | rom
  | device
  | none
deriving DecidableEq, Repr

/-- One row of the map: the addresses from `first` to `last`, with their kind for each kind of access. -/
structure Region where
  first : Addr
  last : Addr
  fetch : MemKind
  load : MemKind
  store : MemKind
deriving DecidableEq, Repr

/-- The kind of a row for a kind of access. -/
def Region.kind (r : Region) : Access → MemKind
  | .fetch => r.fetch
  | .load => r.load
  | .store => r.store

/-! ### The other parameters -/

/-- `BYTE_ORDER` (decision D1): which byte of a word is at the lower address. -/
inductive ByteOrder
  /-- Bits 15:8 are at the lower address. -/
  | big
  /-- Bits 7:0 are at the lower address. -/
  | little
deriving DecidableEq, Repr

/-- `MISALIGNED` (decision D2): what a word access at an odd address does, an instruction fetch among them. -/
inductive Misaligned
  /-- There is no step. -/
  | refuse
  /-- The access is that of the even address below ("ignore bit 0", D2). -/
  | ignoreBit0
deriving DecidableEq, Repr

/-- `PC_REL_BASE` (decision D3): the value that a rule reads as "PC". -/
inductive PcRelBase
  /-- The address of the following instruction. -/
  | nextPc
  /-- The address of the instruction itself. -/
  | thisPc
deriving DecidableEq, Repr

/-- `LOOKUP_ADDR` (decision D12): the entry of a custom table for the value `v` of Dn is the word at
`base + page * pageStride + v * entryStride`. -/
structure LookupAddr where
  base : Addr
  pageStride : Nat
  entryStride : Nat
deriving DecidableEq, Repr

/-- `INT_ENTRY` (decisions D26, D28, D29): what these leave to choose. -/
structure IntEntry where
  /-- Interrupt entry clears IE (D26). -/
  clearIe : Bool
  /-- RTI restores IE from the popped SR word (D28). -/
  restoreIe : Bool
  /-- The word INT met in the instruction stream performs the entry (D29); if not, it is refused. -/
  inStream : Bool
deriving DecidableEq, Repr

/-- `HALT_WAKE` (decision D30): what but reset leaves the halted state. -/
inductive HaltWake
  /-- Nothing. -/
  | never
  /-- An interrupt that IE = 1 admits: it is accepted in the halted state. -/
  | interrupt
deriving DecidableEq, Repr

/-- `TRASHED_FLAGS` (decisions D24, D35): what an instruction does that reads a flag which INC or DEC of an XY pair or LEA has
left undefined and nothing has written since (R44). -/
inductive TrashedFlags
  /-- It reads the draw. -/
  | draw
  /-- It is refused. -/
  | refuseRead
deriving DecidableEq, Repr

/-- `RESET_STATE` (decision D31): what the processor's registers hold after reset. -/
structure ResetState where
  d : Machine.Quad Word
  x : Machine.Quad Word
  y : Machine.Quad Byte
  pc : Addr
  c : Bool
  z : Bool
  n : Bool
  v : Bool
  ie : Bool
  halted : Bool
  haltCode : Byte
deriving DecidableEq, Repr

/-- The configuration of a K16 (R8): one field for each parameter that has a default. The parameters without one stand
elsewhere: `RECIP0` and `RECIP1` are constants below, and `IRQ_LINES` is the input `irq` of the state. -/
structure Config where
  /-- `MEM_MAP` (D33): the rows of the map, the first that has an address deciding; in no row, the kind is none. -/
  memMap : List Region
  /-- `VECTOR_BASE` (D27): where the interrupt vector is. -/
  vectorBase : Addr
  /-- `BYTE_ORDER` (D1). -/
  byteOrder : ByteOrder
  /-- `MISALIGNED` (D2). -/
  misaligned : Misaligned
  /-- `PC_REL_BASE` (D3). -/
  pcRelBase : PcRelBase
  /-- `OPERAND_LAYOUT` (D10): which bit of this machine's operand field holds bit k of the field as R82 lays it out, for
  k = 0 to 8. -/
  operandLayout : List Nat
  /-- `REG_CODES` (D11): the code of R86 of the register that this machine gives the code k, for k = 0 to 15. -/
  regCodes : List (BitVec 4)
  /-- `LOOKUP_ADDR` (D12). -/
  lookupAddr : LookupAddr
  /-- `TRASHED_FLAGS` (D24, D35). -/
  trashedFlags : TrashedFlags
  /-- `INT_ENTRY` (D26, D28, D29). -/
  intEntry : IntEntry
  /-- `HALT_WAKE` (D30). -/
  haltWake : HaltWake
  /-- `RESET_STATE` (D31). -/
  resetState : ResetState
deriving DecidableEq, Repr

/-! ### Free values -/

/-- The k-th drawn bit: a flag left undefined by INC or DEC of an XY pair (R44) or by LEA (R165). Logs 11 and 12. -/
opaque Config.freeBit : Nat → Bool

/-- What the k-th draw answers when it is a byte read of a device address (R52). Log 7. -/
opaque Config.deviceByte : Nat → Addr → Byte

/-- What the k-th draw answers when it is a word read of a device address: one bus access (R67). Log 7. -/
opaque Config.deviceWord : Nat → Addr → Word

/-- `RECIP0`: the reciprocal of 0, OPEN (R209, decision D22). Log 14. -/
opaque Config.recip0 : Word

/-- `RECIP1`: the reciprocal of 1, OPEN (R209, decision D22). Log 14. -/
opaque Config.recip1 : Word

/-- What the byte of RAM at an address reads as while nothing has written it: "any value or refuse, never zero"
(93_implementation_defined.md U13; R351). Log 4. -/
opaque Config.unwrittenByte : Nat → Byte

/-- What the byte of ROM at an address outside the image reads as: "any value (fixed over a run: ROM is idempotent)"
(93_implementation_defined.md U12; R203). Log 4. -/
opaque Config.blankRomByte : Nat → Byte

end Sys2Proof
end

