-- ==== Sys2Proof/Syntax.lean ====
section
/-!
DEFINITION. The K16's instructions as terms (00_scope.md R9): one constructor for each row of
spec/opcode_table.json, with the operand classes that the rules admit (30_encoding.md R86 to R103).
-/

namespace Sys2Proof

/-- The number 0 to 3 of a D, X or Y register or of an XY pair (fields A, B and N of R82). -/
inductive Idx
  | i0
  | i1
  | i2
  | i3
deriving DecidableEq, Repr

/-- A general register, the class "DXY" of R86: codes 0 to 11. -/
inductive Gpr
  /-- D0 to D3: codes 0 to 3. -/
  | d (n : Idx)
  /-- X0 to X3: codes 4 to 7. -/
  | x (n : Idx)
  /-- Y0 to Y3: codes 8 to 11. -/
  | y (n : Idx)
deriving DecidableEq, Repr

/-- The destination of a MOVE (R94, R141): codes 0 to 11, 13 (SR) and 15 (PCL). -/
inductive MoveDst
  | gpr (g : Gpr)
  | sr
  | pcl
deriving DecidableEq, Repr

/-- The source of a MOVE in mode 01 (R94, R142): codes 4 to 11, 13 (SR), 14 (PCH) and 15 (PCL). -/
inductive MoveSrc
  | x (n : Idx)
  | y (n : Idx)
  | sr
  | pch
  | pcl
deriving DecidableEq, Repr

/-- The register of a single PUSH or POP (R95, R96): codes 0 to 11 and 13 (SR). -/
inductive StackReg
  | gpr (g : Gpr)
  | sr
deriving DecidableEq, Repr

/-- An X or Y register, the operand class of SWAP (R94): codes 4 to 11. -/
inductive XYReg
  | x (n : Idx)
  | y (n : Idx)
deriving DecidableEq, Repr

/-- The eight conditions of R87, in the order of their codes. -/
inductive Cond
  | eq
  | ne
  | cs
  | cc
  | lt
  | gt
  | ge
  | le
deriving DecidableEq, Repr

/-- The instructions, one constructor for each row of the opcode table, in its order. -/
inductive Instr
  /-- NOP (R292). -/
  | nop
  /-- HALT #n (R291). -/
  | halt (n : Byte)
  /-- SHL4 Dn, page $04 (R204). -/
  | shl4 (n : Idx)
  /-- SHR4 Dn, page $06 (R205). -/
  | shr4 (n : Idx)
  /-- ASR4 Dn, page $08 (R206). -/
  | asr4 (n : Idx)
  /-- ASR8 Dn, page $0A (R207). -/
  | asr8 (n : Idx)
  /-- MULB Dn, page $0C (R208). -/
  | mulb (n : Idx)
  /-- RECIP Dn, page $0E (R209). -/
  | recip (n : Idx)
  /-- SHL Dn, page $10 (R210). -/
  | shl (n : Idx)
  /-- SHR Dn, page $12 (R211). -/
  | shr (n : Idx)
  /-- ASR Dn, page $14 (R212). -/
  | asr (n : Idx)
  /-- ROL Dn, page $16 (R213). -/
  | rol (n : Idx)
  /-- ROR Dn, page $18 (R214). -/
  | ror (n : Idx)
  /-- SWAPB Dn, page $1A (R215). -/
  | swapb (n : Idx)
  /-- HIGH Dn, page $1C (R216). -/
  | high (n : Idx)
  /-- LOW Dn, page $1E (R217). -/
  | low (n : Idx)
  /-- LOOKUP Dn, #page with a page that R201 does not name; `t` is the table number `page >> 1` (R90, R202). -/
  | lookup (t : BitVec 7) (n : Idx)
  /-- INC XYn, #imm5 (R180). -/
  | incXY (n : Idx) (i : Imm5)
  /-- DEC XYn, #imm5 (R181). -/
  | decXY (n : Idx) (i : Imm5)
  /-- LEA XYn, XYm (R161). -/
  | leaCopy (n : Idx) (m : Idx)
  /-- LEA XYn, XYm+Do (R162). -/
  | leaIdx (n : Idx) (m : Idx) (o : Idx)
  /-- LEA XYn, label (R163). -/
  | leaPc (n : Idx) (off : Word)
  /-- LEA XYn, XYm+#imm5 (R164). -/
  | leaOff (n : Idx) (m : Idx) (i : Imm5)
  /-- SEQ dst, #imm16 (R233, R235). -/
  | seq (dst : Gpr) (v : Word)
  /-- SNE dst, #imm16 (R233, R235). -/
  | sne (dst : Gpr) (v : Word)
  /-- SCS dst, #imm16 (R233, R235). -/
  | scs (dst : Gpr) (v : Word)
  /-- SCC dst, #imm16 (R233, R235). -/
  | scc (dst : Gpr) (v : Word)
  /-- SLT dst, #imm16 (R233, R235). -/
  | slt (dst : Gpr) (v : Word)
  /-- SGT dst, #imm16 (R233, R235). -/
  | sgt (dst : Gpr) (v : Word)
  /-- SGE dst, #imm16 (R233, R235). -/
  | sge (dst : Gpr) (v : Word)
  /-- SLE dst, #imm16 (R233, R235). -/
  | sle (dst : Gpr) (v : Word)
  /-- MOVE dst, Dn (R141). -/
  | moveD (dst : MoveDst) (n : Idx)
  /-- MOVE dst, src (R142). -/
  | moveS (dst : MoveDst) (src : MoveSrc)
  /-- SWAP Dn, Xn/Yn (R144). -/
  | swapD (n : Idx) (r : XYReg)
  /-- SWAP Xn/Yn, Xn/Yn (R145). -/
  | swapXY (a : XYReg) (b : XYReg)
  /-- PUSH reg, XYp (R274). -/
  | pushReg (r : StackReg) (p : Idx)
  /-- PUSH D, XYp: the D group (R273). -/
  | pushD (p : Idx)
  /-- PUSH XYn, XYp (R275). -/
  | pushXY (n : Idx) (p : Idx)
  /-- PUSH #imm5, XYp (R276). -/
  | pushImm5 (i : Imm5) (p : Idx)
  /-- POP reg, XYp (R278). -/
  | popReg (r : StackReg) (p : Idx)
  /-- POP D, XYp: the D group (R277). -/
  | popD (p : Idx)
  /-- POP XYn, XYp (R279). -/
  | popXY (n : Idx) (p : Idx)
  /-- PUSH #imm16, XYp (R280). -/
  | pushi (v : Word) (p : Idx)
  /-- ADD dst, src (R172, mode 00). -/
  | addReg (dst : Gpr) (src : Gpr)
  /-- ADD dst, [XYn] (R172, mode 01). -/
  | addMem (dst : Gpr) (n : Idx)
  /-- ADD dst, #imm5 (R172, mode 10). -/
  | addImm5 (dst : Gpr) (i : Imm5)
  /-- ADD dst, #imm16 (R172, mode 11). -/
  | addImm16 (dst : Gpr) (v : Word)
  /-- ADC dst, src (R173, mode 00). -/
  | adcReg (dst : Gpr) (src : Gpr)
  /-- ADC dst, [XYn] (R173, mode 01). -/
  | adcMem (dst : Gpr) (n : Idx)
  /-- ADC dst, #imm5 (R173, mode 10). -/
  | adcImm5 (dst : Gpr) (i : Imm5)
  /-- ADC dst, #imm16 (R173, mode 11). -/
  | adcImm16 (dst : Gpr) (v : Word)
  /-- SUB dst, src (R174, mode 00). -/
  | subReg (dst : Gpr) (src : Gpr)
  /-- SUB dst, [XYn] (R174, mode 01). -/
  | subMem (dst : Gpr) (n : Idx)
  /-- SUB dst, #imm5 (R174, mode 10). -/
  | subImm5 (dst : Gpr) (i : Imm5)
  /-- SUB dst, #imm16 (R174, mode 11). -/
  | subImm16 (dst : Gpr) (v : Word)
  /-- SBC dst, src (R175, mode 00). -/
  | sbcReg (dst : Gpr) (src : Gpr)
  /-- SBC dst, [XYn] (R175, mode 01). -/
  | sbcMem (dst : Gpr) (n : Idx)
  /-- SBC dst, #imm5 (R175, mode 10). -/
  | sbcImm5 (dst : Gpr) (i : Imm5)
  /-- SBC dst, #imm16 (R175, mode 11). -/
  | sbcImm16 (dst : Gpr) (v : Word)
  /-- AND dst, src (R191, mode 00). -/
  | andReg (dst : Gpr) (src : Gpr)
  /-- AND dst, [XYn] (R191, mode 01). -/
  | andMem (dst : Gpr) (n : Idx)
  /-- AND dst, #imm5 (R191, mode 10). -/
  | andImm5 (dst : Gpr) (i : Imm5)
  /-- AND dst, #imm16 (R191, mode 11). -/
  | andImm16 (dst : Gpr) (v : Word)
  /-- OR dst, src (R192, mode 00). -/
  | orReg (dst : Gpr) (src : Gpr)
  /-- OR dst, [XYn] (R192, mode 01). -/
  | orMem (dst : Gpr) (n : Idx)
  /-- OR dst, #imm5 (R192, mode 10). -/
  | orImm5 (dst : Gpr) (i : Imm5)
  /-- OR dst, #imm16 (R192, mode 11). -/
  | orImm16 (dst : Gpr) (v : Word)
  /-- XOR dst, src (R193, mode 00). -/
  | xorReg (dst : Gpr) (src : Gpr)
  /-- XOR dst, [XYn] (R193, mode 01). -/
  | xorMem (dst : Gpr) (n : Idx)
  /-- XOR dst, #imm5 (R193, mode 10). -/
  | xorImm5 (dst : Gpr) (i : Imm5)
  /-- XOR dst, #imm16 (R193, mode 11). -/
  | xorImm16 (dst : Gpr) (v : Word)
  /-- NOT dst, src (R194). -/
  | notReg (dst : Gpr) (src : Gpr)
  /-- NOT dst, [XYn] (R195). -/
  | notMem (dst : Gpr) (n : Idx)
  /-- NOT dst, in place (R196). -/
  | notSelf (dst : Gpr)
  /-- CMP dst, src (R230, mode 00). -/
  | cmpReg (dst : Gpr) (src : Gpr)
  /-- CMP dst, [XYn] (R230, mode 01). -/
  | cmpMem (dst : Gpr) (n : Idx)
  /-- CMP dst, #imm5 (R230, mode 10). -/
  | cmpImm5 (dst : Gpr) (i : Imm5)
  /-- CMP dst, #imm16 (R230, mode 11). -/
  | cmpImm16 (dst : Gpr) (v : Word)
  /-- BEQ.S target (R241, R245). -/
  | beqS (i : Imm5)
  /-- BNE.S target (R241, R245). -/
  | bneS (i : Imm5)
  /-- BCS.S target (R241, R245). -/
  | bcsS (i : Imm5)
  /-- BCC.S target (R241, R245). -/
  | bccS (i : Imm5)
  /-- BLT.S target (R241, R245). -/
  | bltS (i : Imm5)
  /-- BGT.S target (R241, R245). -/
  | bgtS (i : Imm5)
  /-- BGE.S target (R241, R245). -/
  | bgeS (i : Imm5)
  /-- BLE.S target (R241, R245). -/
  | bleS (i : Imm5)
  /-- BEQ.L target (R242, R245). -/
  | beqL (off : Word)
  /-- BNE.L target (R242, R245). -/
  | bneL (off : Word)
  /-- BCS.L target (R242, R245). -/
  | bcsL (off : Word)
  /-- BCC.L target (R242, R245). -/
  | bccL (off : Word)
  /-- BLT.L target (R242, R245). -/
  | bltL (off : Word)
  /-- BGT.L target (R242, R245). -/
  | bgtL (off : Word)
  /-- BGE.L target (R242, R245). -/
  | bgeL (off : Word)
  /-- BLE.L target (R242, R245). -/
  | bleL (off : Word)
  /-- BRA.S target (R243). -/
  | braS (i : Imm5)
  /-- BRA.L target (R244). -/
  | braL (off : Word)
  /-- JMP24 addr (R247). -/
  | jmp24 (addr : Addr)
  /-- JMP16 addr (R248). -/
  | jmp16 (addr : Word)
  /-- JMPT XYn, Dm (R249). -/
  | jmpt (n : Idx) (m : Idx)
  /-- JMPXY XYn (R250). -/
  | jmpxy (n : Idx)
  /-- CALL24 addr (R252). -/
  | call24 (addr : Addr)
  /-- CALL16 addr (R253). -/
  | call16 (addr : Word)
  /-- CALLR addr (R254). -/
  | callr (off : Word)
  /-- RET #imm5 (R255). -/
  | ret (i : Imm5)
  /-- LOADD Dr, [XYn] (R123, mode 00). -/
  | loaddInd (r : Idx) (n : Idx)
  /-- LOADD Dr, [XYn+Dm] (R123, mode 01). -/
  | loaddIdx (r : Idx) (n : Idx) (m : Idx)
  /-- LOADD Dr, [label] (R123, mode 10). -/
  | loaddPc (r : Idx) (off : Word)
  /-- LOADD Dr, [XYn+#imm5] (R123, mode 11). -/
  | loaddOff (r : Idx) (n : Idx) (i : Imm5)
  /-- LOADB Dr, [XYn] (R127, mode 00). -/
  | loadbInd (r : Idx) (n : Idx)
  /-- LOADB Dr, [XYn+Dm] (R127, mode 01). -/
  | loadbIdx (r : Idx) (n : Idx) (m : Idx)
  /-- LOADB Dr, [label] (R127, mode 10). -/
  | loadbPc (r : Idx) (off : Word)
  /-- LOADB Dr, [XYn+#imm5] (R127, mode 11). -/
  | loadbOff (r : Idx) (n : Idx) (i : Imm5)
  /-- LOADX Xr, [XYn] (R124, mode 00). -/
  | loadxInd (r : Idx) (n : Idx)
  /-- LOADX Xr, [XYn+Dm] (R124, mode 01). -/
  | loadxIdx (r : Idx) (n : Idx) (m : Idx)
  /-- LOADX Xr, [label] (R124, mode 10). -/
  | loadxPc (r : Idx) (off : Word)
  /-- LOADX Xr, [XYn+#imm5] (R124, mode 11). -/
  | loadxOff (r : Idx) (n : Idx) (i : Imm5)
  /-- LOADY Yr, [XYn] (R125, mode 00). -/
  | loadyInd (r : Idx) (n : Idx)
  /-- LOADY Yr, [XYn+Dm] (R125, mode 01). -/
  | loadyIdx (r : Idx) (n : Idx) (m : Idx)
  /-- LOADY Yr, [label] (R125, mode 10). -/
  | loadyPc (r : Idx) (off : Word)
  /-- LOADY Yr, [XYn+#imm5] (R125, mode 11). -/
  | loadyOff (r : Idx) (n : Idx) (i : Imm5)
  /-- LOADI reg, #imm5 (R121). -/
  | loadiImm5 (dst : Gpr) (i : Imm5)
  /-- LOADI reg, #imm16 (R122). -/
  | loadiImm16 (dst : Gpr) (v : Word)
  /-- LOADXY XYn, [XYm] (R128). -/
  | loadxy (n : Idx) (m : Idx)
  /-- LOADP reg, Yn, [#imm16] (R129). -/
  | loadp (dst : Gpr) (n : Idx) (off : Word)
  /-- LOADPB reg, Yn, [#imm16] (R130). -/
  | loadpb (dst : Gpr) (n : Idx) (off : Word)
  /-- STORED Dr, [XYn] (R131, mode 00). -/
  | storedInd (r : Idx) (n : Idx)
  /-- STORED Dr, [XYn+Dm] (R131, mode 01). -/
  | storedIdx (r : Idx) (n : Idx) (m : Idx)
  /-- STORED Dr, [label] (R131, mode 10). -/
  | storedPc (r : Idx) (off : Word)
  /-- STORED Dr, [XYn+#imm5] (R131, mode 11). -/
  | storedOff (r : Idx) (n : Idx) (i : Imm5)
  /-- STOREB Dr, [XYn] (R135, mode 00). -/
  | storebInd (r : Idx) (n : Idx)
  /-- STOREB Dr, [XYn+Dm] (R135, mode 01). -/
  | storebIdx (r : Idx) (n : Idx) (m : Idx)
  /-- STOREB Dr, [label] (R135, mode 10). -/
  | storebPc (r : Idx) (off : Word)
  /-- STOREB Dr, [XYn+#imm5] (R135, mode 11). -/
  | storebOff (r : Idx) (n : Idx) (i : Imm5)
  /-- STOREX Xr, [XYn] (R132, mode 00). -/
  | storexInd (r : Idx) (n : Idx)
  /-- STOREX Xr, [XYn+Dm] (R132, mode 01). -/
  | storexIdx (r : Idx) (n : Idx) (m : Idx)
  /-- STOREX Xr, [label] (R132, mode 10). -/
  | storexPc (r : Idx) (off : Word)
  /-- STOREX Xr, [XYn+#imm5] (R132, mode 11). -/
  | storexOff (r : Idx) (n : Idx) (i : Imm5)
  /-- STOREY Yr, [XYn] (R133, mode 00). -/
  | storeyInd (r : Idx) (n : Idx)
  /-- STOREY Yr, [XYn+Dm] (R133, mode 01). -/
  | storeyIdx (r : Idx) (n : Idx) (m : Idx)
  /-- STOREY Yr, [label] (R133, mode 10). -/
  | storeyPc (r : Idx) (off : Word)
  /-- STOREY Yr, [XYn+#imm5] (R133, mode 11). -/
  | storeyOff (r : Idx) (n : Idx) (i : Imm5)
  /-- STOREI #imm5, [XYn] (R136). -/
  | storeiImm5 (i : Imm5) (n : Idx)
  /-- STOREI #imm16, [XYn] (R137). -/
  | storeiImm16 (v : Word) (n : Idx)
  /-- STOREXY XYn, [XYm] (R138). -/
  | storexy (n : Idx) (m : Idx)
  /-- STOREP reg, Yn, [#imm16] (R139). -/
  | storep (src : Gpr) (n : Idx) (off : Word)
  /-- STOREPB reg, Yn, [#imm16] (R140). -/
  | storepb (src : Gpr) (n : Idx) (off : Word)
  /-- DINT (R293). -/
  | dint
  /-- EINT (R294). -/
  | eint
  /-- RTI (R296). -/
  | rti
  /-- INT (R297). -/
  | int
deriving DecidableEq, Repr

end Sys2Proof
end

