-- ==== Sys2Proof/WellFormed.lean ====
section
/-!
DEFINITION. When an instruction term is one that a word can stand for. The operand classes of Syntax already
keep register codes, immediates and addresses to what the rules admit; what is left is the page of LOOKUP.
-/

namespace Sys2Proof

/-- The table numbers `page >> 1` of the 14 named pages $04 to $1E (R201). -/
def namedTable (t : BitVec 7) : Bool := decide (2 ≤ t.toNat) && decide (t.toNat ≤ 15)

/-- The generic LOOKUP stands "for every other page" (R116): a named page has a constructor of its own, so that
each instruction has exactly one term. Every other term is well formed. -/
def Instr.wellFormed : Instr → Bool
  | .lookup t _ => !namedTable t
  | _ => true

end Sys2Proof
end

