-- ==== Sys2Proof/Decode.lean ====
section
/-!
DEFINITION. Decoding and encoding of the K16's instruction words (30_encoding.md): the fields of R82, the operand
layouts of R89 to R103, the lengths of R84, the reserved encodings of R104.
-/

namespace Sys2Proof

/-! ### Slices of words and addresses -/

/-- Bits 15:8 of a word. -/
def hiByte (w : Word) : Byte := w.extractLsb' 8 8

/-- Bits 7:0 of a word. -/
def loByte (w : Word) : Byte := w.extractLsb' 0 8

/-- Bits 23:16 of an address: its bank (R18). -/
def bankOf (a : Addr) : Byte := a.extractLsb' 16 8

/-- Bits 15:0 of an address: its offset in the bank. -/
def offsetOf (a : Addr) : Word := a.extractLsb' 0 16

/-- `{bank, offset}` (R10). -/
def mkAddr (bank : Byte) (offset : Word) : Addr := bank ++ offset

/-! ### The fields of the instruction word (R82) -/

/-- OP: bits 15:11. -/
def fOp (iw : Word) : BitVec 5 := iw.extractLsb' 11 5
/-- MODE: bits 10:9. -/
def fMode (iw : Word) : BitVec 2 := iw.extractLsb' 9 2
/-- R: bits 8:5, a register code. -/
def fR (iw : Word) : BitVec 4 := iw.extractLsb' 5 4
/-- A: bits 8:7, the upper half of R. -/
def fA (iw : Word) : BitVec 2 := iw.extractLsb' 7 2
/-- B: bits 6:5, the lower half of R. -/
def fB (iw : Word) : BitVec 2 := iw.extractLsb' 5 2
/-- Bit 8. -/
def fBit8 (iw : Word) : BitVec 1 := iw.extractLsb' 8 1
/-- CB: bits 7:5, the condition code of a branch. -/
def fCB (iw : Word) : BitVec 3 := iw.extractLsb' 5 3
/-- I: bits 4:0, the IMM5. -/
def fI (iw : Word) : BitVec 5 := iw.extractLsb' 0 5
/-- F: bit 4. -/
def fF (iw : Word) : BitVec 1 := iw.extractLsb' 4 1
/-- Bits 4:2: F and M together. -/
def fFM (iw : Word) : BitVec 3 := iw.extractLsb' 2 3
/-- M: bits 3:2. -/
def fM (iw : Word) : BitVec 2 := iw.extractLsb' 2 2
/-- N: bits 1:0. -/
def fN (iw : Word) : BitVec 2 := iw.extractLsb' 0 2
/-- S: bits 3:0, a second register code. -/
def fS (iw : Word) : BitVec 4 := iw.extractLsb' 0 4
/-- Bits 4:3, zero in an Scc (R93). -/
def fScc (iw : Word) : BitVec 2 := iw.extractLsb' 3 2
/-- CS: bits 2:0, the condition code of an Scc. -/
def fCS (iw : Word) : BitVec 3 := iw.extractLsb' 0 3
/-- Bits 8:0: the whole operand field. -/
def fOperand (iw : Word) : BitVec 9 := iw.extractLsb' 0 9

/-! ### Register and condition codes (R86, R87) -/

/-- The two bits of a register number. -/
def Idx.bits : Idx → BitVec 2
  | .i0 => 0
  | .i1 => 1
  | .i2 => 2
  | .i3 => 3

/-- The register number that two bits stand for. -/
def Idx.ofBits (b : BitVec 2) : Idx :=
  match b.toNat with
  | 0 => .i0
  | 1 => .i1
  | 2 => .i2
  | _ => .i3

/-- Bits 4:0 with the number in field N and zero in F and M. -/
def Idx.low (n : Idx) : BitVec 5 := (0 : BitVec 3) ++ n.bits

/-- Bits 4:0 with the number in field N, F = 1 and zero in M: LOADPB and STOREPB (R103). -/
def Idx.lowF (n : Idx) : BitVec 5 := (1 : BitVec 1) ++ (0 : BitVec 2) ++ n.bits

/-- Bits 8:5 with the number in field A and zero in B. -/
def Idx.inA (n : Idx) : BitVec 4 := n.bits ++ (0 : BitVec 2)

/-- Bits 8:5 with the number in field B and zero in A. -/
def Idx.inB (n : Idx) : BitVec 4 := (0 : BitVec 2) ++ n.bits

/-- Bits 8:5 with `a` in field A and `b` in field B: R = {A, B} (R82). -/
def pairAB (a b : Idx) : BitVec 4 := a.bits ++ b.bits

/-- Bits 4:0 with a register code in field S and F = 0. -/
def inS (c : BitVec 4) : BitVec 5 := (0 : BitVec 1) ++ c

/-- The code of a general register (R86): 0 to 11. -/
def Gpr.code : Gpr → BitVec 4
  | .d n => (0 : BitVec 2) ++ n.bits
  | .x n => (1 : BitVec 2) ++ n.bits
  | .y n => (2 : BitVec 2) ++ n.bits

/-- The general register of a code, none for 12 to 15. -/
def Gpr.ofCode? (c : BitVec 4) : Option Gpr :=
  let n := Idx.ofBits (c.extractLsb' 0 2)
  match (c.extractLsb' 2 2).toNat with
  | 0 => some (.d n)
  | 1 => some (.x n)
  | 2 => some (.y n)
  | _ => none

/-- The code of a MOVE destination: SR is 13, PCL is 15. -/
def MoveDst.code : MoveDst → BitVec 4
  | .gpr g => g.code
  | .sr => 13
  | .pcl => 15

/-- The MOVE destination of a code: none for 12 (ORDB) and 14 (PCH) (R141). -/
def MoveDst.ofCode? (c : BitVec 4) : Option MoveDst :=
  match c.toNat with
  | 12 => none
  | 13 => some .sr
  | 14 => none
  | 15 => some .pcl
  | _ => (Gpr.ofCode? c).map .gpr

/-- The code of a MOVE source in mode 01: SR is 13, PCH is 14, PCL is 15. -/
def MoveSrc.code : MoveSrc → BitVec 4
  | .x n => (1 : BitVec 2) ++ n.bits
  | .y n => (2 : BitVec 2) ++ n.bits
  | .sr => 13
  | .pch => 14
  | .pcl => 15

/-- The MOVE source of a code: none for 0 to 3 and for 12 (R142). -/
def MoveSrc.ofCode? (c : BitVec 4) : Option MoveSrc :=
  let n := Idx.ofBits (c.extractLsb' 0 2)
  match (c.extractLsb' 2 2).toNat, (c.extractLsb' 0 2).toNat with
  | 0, _ => none
  | 1, _ => some (.x n)
  | 2, _ => some (.y n)
  | _, 0 => none
  | _, 1 => some .sr
  | _, 2 => some .pch
  | _, _ => some .pcl

/-- The code of the register of a single PUSH or POP. -/
def StackReg.code : StackReg → BitVec 4
  | .gpr g => g.code
  | .sr => 13

/-- The stack register of a code: none for 12, 14 and 15 (R274). -/
def StackReg.ofCode? (c : BitVec 4) : Option StackReg :=
  match c.toNat with
  | 12 => none
  | 13 => some .sr
  | 14 => none
  | 15 => none
  | _ => (Gpr.ofCode? c).map .gpr

/-- The code of an X or Y register: 4 to 11. -/
def XYReg.code : XYReg → BitVec 4
  | .x n => (1 : BitVec 2) ++ n.bits
  | .y n => (2 : BitVec 2) ++ n.bits

/-- The X or Y register of a code: none for 0 to 3 and 12 to 15. -/
def XYReg.ofCode? (c : BitVec 4) : Option XYReg :=
  let n := Idx.ofBits (c.extractLsb' 0 2)
  match (c.extractLsb' 2 2).toNat with
  | 1 => some (.x n)
  | 2 => some (.y n)
  | _ => none

/-- The code of a condition (R87). -/
def Cond.code : Cond → BitVec 3
  | .eq => 0
  | .ne => 1
  | .cs => 2
  | .cc => 3
  | .lt => 4
  | .gt => 5
  | .ge => 6
  | .le => 7

/-- The condition of a code (R87). -/
def Cond.ofCode (c : BitVec 3) : Cond :=
  match c.toNat with
  | 0 => .eq
  | 1 => .ne
  | 2 => .cs
  | 3 => .cc
  | 4 => .lt
  | 5 => .gt
  | 6 => .ge
  | _ => .le

/-! ### Reserved encodings (R104) -/

/-- Why bytes are not an instruction. -/
inductive Reject
  /-- Opcode $1E, "spare". -/
  | spareOpcode
  /-- A mode that R81 marks reserved. -/
  | reservedMode
  /-- A must-be-zero bit of the instruction word is 1. -/
  | mustBeZero
  /-- A register code that the form does not admit. -/
  | registerCode
  /-- Bits 15:8 of `ext1` are not zero in JMP24 or CALL24. -/
  | bankHighByte
  /-- The bytes end before the instruction does. -/
  | truncated
deriving DecidableEq, Repr

/-! ### Constructors picked by a field -/

/-- The Scc of a condition (R235). -/
def sccInstr : Cond → Gpr → Word → Instr
  | .eq => .seq
  | .ne => .sne
  | .cs => .scs
  | .cc => .scc
  | .lt => .slt
  | .gt => .sgt
  | .ge => .sge
  | .le => .sle

/-- The short branch of a condition (R245). -/
def bccSInstr : Cond → Imm5 → Instr
  | .eq => .beqS
  | .ne => .bneS
  | .cs => .bcsS
  | .cc => .bccS
  | .lt => .bltS
  | .gt => .bgtS
  | .ge => .bgeS
  | .le => .bleS

/-- The long branch of a condition (R245). -/
def bccLInstr : Cond → Word → Instr
  | .eq => .beqL
  | .ne => .bneL
  | .cs => .bcsL
  | .cc => .bccL
  | .lt => .bltL
  | .gt => .bgtL
  | .ge => .bgeL
  | .le => .bleL

/-- The LOOKUP of a table number: one of the 14 named operations (R90, R201), else the custom form. -/
def lookupInstr (t : BitVec 7) (n : Idx) : Instr :=
  match t.toNat with
  | 2 => .shl4 n
  | 3 => .shr4 n
  | 4 => .asr4 n
  | 5 => .asr8 n
  | 6 => .mulb n
  | 7 => .recip n
  | 8 => .shl n
  | 9 => .shr n
  | 10 => .asr n
  | 11 => .rol n
  | 12 => .ror n
  | 13 => .swapb n
  | 14 => .high n
  | 15 => .low n
  | _ => .lookup t n

/-! ### Decoding, opcode group by opcode group -/

/-- `i` if the must-be-zero bits are zero (R104). -/
def ifZero {w : Nat} (bits : BitVec w) (i : Except Reject Instr) : Except Reject Instr :=
  if bits = 0 then i else .error .mustBeZero

/-- `k` of the operand if its code is admitted (R104). -/
def withCode {α : Type} (o : Option α) (k : α → Except Reject Instr) : Except Reject Instr :=
  match o with
  | some a => k a
  | none => .error .registerCode

/-- Opcode $00 (R89). -/
def decodeMisc (iw : Word) : Except Reject Instr :=
  match (fMode iw).toNat with
  | 0 => ifZero (fOperand iw) (.ok .nop)
  | 1 => ifZero (fBit8 iw) (.ok (.halt (iw.extractLsb' 0 8)))
  | _ => .error .reservedMode

/-- The table number T of a LOOKUP: `{iw[8:4], iw[10:9]}` (R90). -/
def lookupTable (iw : Word) : BitVec 7 := iw.extractLsb' 4 5 ++ fMode iw

/-- Opcode $01 (R90). -/
def decodeLookup (iw : Word) : Except Reject Instr :=
  ifZero (fM iw) (.ok (lookupInstr (lookupTable iw) (Idx.ofBits (fN iw))))

/-- Opcode $02 (R91). -/
def decodeIncDec (iw : Word) : Except Reject Instr :=
  match (fMode iw).toNat with
  | 0 => ifZero (fA iw) (.ok (.incXY (Idx.ofBits (fB iw)) (fI iw)))
  | 1 => ifZero (fA iw) (.ok (.decXY (Idx.ofBits (fB iw)) (fI iw)))
  | _ => .error .reservedMode

/-- Opcode $03 (R92): B is the destination pair, A the source pair. -/
def decodeLea (iw e1 : Word) : Except Reject Instr :=
  let n := Idx.ofBits (fB iw)
  let m := Idx.ofBits (fA iw)
  match (fMode iw).toNat with
  | 0 => ifZero (fI iw) (.ok (.leaCopy n m))
  | 1 => ifZero (fFM iw) (.ok (.leaIdx n m (Idx.ofBits (fN iw))))
  | 2 => ifZero (fA iw) (ifZero (fI iw) (.ok (.leaPc n e1)))
  | _ => .ok (.leaOff n m (fI iw))

/-- Opcode $04 (R93). -/
def decodeScc (iw e1 : Word) : Except Reject Instr :=
  match (fMode iw).toNat with
  | 0 => ifZero (fScc iw) (withCode (Gpr.ofCode? (fR iw)) fun dst => .ok (sccInstr (Cond.ofCode (fCS iw)) dst e1))
  | _ => .error .reservedMode

/-- Opcode $05 (R94). -/
def decodeMove (iw : Word) : Except Reject Instr :=
  match (fMode iw).toNat with
  | 0 => ifZero (fFM iw) (withCode (MoveDst.ofCode? (fR iw)) fun dst => .ok (.moveD dst (Idx.ofBits (fN iw))))
  | 1 => ifZero (fF iw) (withCode (MoveDst.ofCode? (fR iw)) fun dst =>
      withCode (MoveSrc.ofCode? (fS iw)) fun src => .ok (.moveS dst src))
  | 2 => ifZero (fF iw) (withCode (Gpr.ofCode? (fR iw)) fun g =>
      match g with
      | .d n => withCode (XYReg.ofCode? (fS iw)) fun r => .ok (.swapD n r)
      | _ => .error .registerCode)
  | _ => ifZero (fF iw) (withCode (XYReg.ofCode? (fR iw)) fun a =>
      withCode (XYReg.ofCode? (fS iw)) fun b => .ok (.swapXY a b))

/-- Opcode $06 (R95). -/
def decodePush (iw : Word) : Except Reject Instr :=
  let p := Idx.ofBits (fN iw)
  match (fMode iw).toNat with
  | 0 => ifZero (fFM iw) (withCode (StackReg.ofCode? (fR iw)) fun r => .ok (.pushReg r p))
  | 1 => ifZero (fR iw) (ifZero (fFM iw) (.ok (.pushD p)))
  | 2 => ifZero (fA iw) (ifZero (fFM iw) (.ok (.pushXY (Idx.ofBits (fB iw)) p)))
  | _ => ifZero (fB iw) (.ok (.pushImm5 (fI iw) (Idx.ofBits (fA iw))))

/-- Opcode $07 (R96). -/
def decodePop (iw e1 : Word) : Except Reject Instr :=
  let p := Idx.ofBits (fN iw)
  match (fMode iw).toNat with
  | 0 => ifZero (fFM iw) (withCode (StackReg.ofCode? (fR iw)) fun r => .ok (.popReg r p))
  | 1 => ifZero (fR iw) (ifZero (fFM iw) (.ok (.popD p)))
  | 2 => ifZero (fA iw) (ifZero (fFM iw) (.ok (.popXY (Idx.ofBits (fB iw)) p)))
  | _ => ifZero (fR iw) (ifZero (fFM iw) (.ok (.pushi e1 p)))

/-- Opcodes $08 to $0E and $10 (R97), by the constructors of the four modes. -/
def decodeAlu (reg : Gpr → Gpr → Instr) (mem : Gpr → Idx → Instr) (imm5 : Gpr → Imm5 → Instr)
    (imm16 : Gpr → Word → Instr) (iw e1 : Word) : Except Reject Instr :=
  withCode (Gpr.ofCode? (fR iw)) fun dst =>
    match (fMode iw).toNat with
    | 0 => ifZero (fF iw) (withCode (Gpr.ofCode? (fS iw)) fun src => .ok (reg dst src))
    | 1 => ifZero (fFM iw) (.ok (mem dst (Idx.ofBits (fN iw))))
    | 2 => .ok (imm5 dst (fI iw))
    | _ => ifZero (fI iw) (.ok (imm16 dst e1))

/-- Opcode $0F (R98). -/
def decodeNot (iw : Word) : Except Reject Instr :=
  match (fMode iw).toNat with
  | 0 => ifZero (fF iw) (withCode (Gpr.ofCode? (fR iw)) fun dst =>
      withCode (Gpr.ofCode? (fS iw)) fun src => .ok (.notReg dst src))
  | 1 => ifZero (fFM iw) (withCode (Gpr.ofCode? (fR iw)) fun dst => .ok (.notMem dst (Idx.ofBits (fN iw))))
  | 2 => ifZero (fI iw) (withCode (Gpr.ofCode? (fR iw)) fun dst => .ok (.notSelf dst))
  | _ => .error .reservedMode

/-- Opcode $11 (R99). -/
def decodeBranch (iw e1 : Word) : Except Reject Instr :=
  match (fMode iw).toNat with
  | 0 => ifZero (fBit8 iw) (.ok (bccSInstr (Cond.ofCode (fCB iw)) (fI iw)))
  | 1 => ifZero (fBit8 iw) (ifZero (fI iw) (.ok (bccLInstr (Cond.ofCode (fCB iw)) e1)))
  | 2 => ifZero (fR iw) (.ok (.braS (fI iw)))
  | _ => ifZero (fOperand iw) (.ok (.braL e1))

/-- `k` of the 24-bit address in two extension words, if bits 15:8 of the first are zero (R85). -/
def withAddr (e1 e2 : Word) (k : Addr → Instr) : Except Reject Instr :=
  if hiByte e1 = 0 then .ok (k (mkAddr (loByte e1) e2)) else .error .bankHighByte

/-- Opcode $12 (R100). -/
def decodeJump (iw e1 e2 : Word) : Except Reject Instr :=
  match (fMode iw).toNat with
  | 0 => ifZero (fOperand iw) (withAddr e1 e2 .jmp24)
  | 1 => ifZero (fOperand iw) (.ok (.jmp16 e1))
  | 2 => ifZero (fB iw) (ifZero (fFM iw) (.ok (.jmpt (Idx.ofBits (fA iw)) (Idx.ofBits (fN iw)))))
  | _ => ifZero (fB iw) (ifZero (fI iw) (.ok (.jmpxy (Idx.ofBits (fA iw)))))

/-- Opcode $13 (R101). -/
def decodeCall (iw e1 e2 : Word) : Except Reject Instr :=
  match (fMode iw).toNat with
  | 0 => ifZero (fOperand iw) (withAddr e1 e2 .call24)
  | 1 => ifZero (fOperand iw) (.ok (.call16 e1))
  | 2 => ifZero (fOperand iw) (.ok (.callr e1))
  | _ => ifZero (fR iw) (.ok (.ret (fI iw)))

/-- The four-mode loads and stores (R102), by the constructors of the four modes. -/
def decodeFour (ind : Idx → Idx → Instr) (idx : Idx → Idx → Idx → Instr) (pc : Idx → Word → Instr)
    (off : Idx → Idx → Imm5 → Instr) (iw e1 : Word) : Except Reject Instr :=
  let r := Idx.ofBits (fB iw)
  let n := Idx.ofBits (fA iw)
  match (fMode iw).toNat with
  | 0 => ifZero (fI iw) (.ok (ind r n))
  | 1 => ifZero (fFM iw) (.ok (idx r n (Idx.ofBits (fN iw))))
  | 2 => ifZero (fA iw) (ifZero (fI iw) (.ok (pc r e1)))
  | _ => .ok (off r n (fI iw))

/-- Opcode $18 (R103). -/
def decodeLoadi (iw e1 : Word) : Except Reject Instr :=
  match (fMode iw).toNat with
  | 0 => withCode (Gpr.ofCode? (fR iw)) fun dst => .ok (.loadiImm5 dst (fI iw))
  | 1 => ifZero (fI iw) (withCode (Gpr.ofCode? (fR iw)) fun dst => .ok (.loadiImm16 dst e1))
  | 2 => ifZero (fI iw) (.ok (.loadxy (Idx.ofBits (fB iw)) (Idx.ofBits (fA iw))))
  | _ => ifZero (fM iw) (withCode (Gpr.ofCode? (fR iw)) fun dst =>
      .ok (if fF iw = 0 then .loadp dst (Idx.ofBits (fN iw)) e1 else .loadpb dst (Idx.ofBits (fN iw)) e1))

/-- Opcode $1D (R103). -/
def decodeStorei (iw e1 : Word) : Except Reject Instr :=
  match (fMode iw).toNat with
  | 0 => ifZero (fB iw) (.ok (.storeiImm5 (fI iw) (Idx.ofBits (fA iw))))
  | 1 => ifZero (fB iw) (ifZero (fI iw) (.ok (.storeiImm16 e1 (Idx.ofBits (fA iw)))))
  | 2 => ifZero (fI iw) (.ok (.storexy (Idx.ofBits (fB iw)) (Idx.ofBits (fA iw))))
  | _ => ifZero (fM iw) (withCode (Gpr.ofCode? (fR iw)) fun src =>
      .ok (if fF iw = 0 then .storep src (Idx.ofBits (fN iw)) e1 else .storepb src (Idx.ofBits (fN iw)) e1))

/-- Opcode $1F (R103). -/
def decodeInt (iw : Word) : Except Reject Instr :=
  ifZero (fOperand iw) (.ok (match (fMode iw).toNat with
    | 0 => .dint
    | 1 => .eint
    | 2 => .rti
    | _ => .int))

/-- The instruction of an instruction word and its extension words (R81). A form that has fewer extension words
does not look at the others. -/
def decodeWords (iw e1 e2 : Word) : Except Reject Instr :=
  match (fOp iw).toNat with
  | 0x00 => decodeMisc iw
  | 0x01 => decodeLookup iw
  | 0x02 => decodeIncDec iw
  | 0x03 => decodeLea iw e1
  | 0x04 => decodeScc iw e1
  | 0x05 => decodeMove iw
  | 0x06 => decodePush iw
  | 0x07 => decodePop iw e1
  | 0x08 => decodeAlu .addReg .addMem .addImm5 .addImm16 iw e1
  | 0x09 => decodeAlu .adcReg .adcMem .adcImm5 .adcImm16 iw e1
  | 0x0A => decodeAlu .subReg .subMem .subImm5 .subImm16 iw e1
  | 0x0B => decodeAlu .sbcReg .sbcMem .sbcImm5 .sbcImm16 iw e1
  | 0x0C => decodeAlu .andReg .andMem .andImm5 .andImm16 iw e1
  | 0x0D => decodeAlu .orReg .orMem .orImm5 .orImm16 iw e1
  | 0x0E => decodeAlu .xorReg .xorMem .xorImm5 .xorImm16 iw e1
  | 0x0F => decodeNot iw
  | 0x10 => decodeAlu .cmpReg .cmpMem .cmpImm5 .cmpImm16 iw e1
  | 0x11 => decodeBranch iw e1
  | 0x12 => decodeJump iw e1 e2
  | 0x13 => decodeCall iw e1 e2
  | 0x14 => decodeFour .loaddInd .loaddIdx .loaddPc .loaddOff iw e1
  | 0x15 => decodeFour .loadbInd .loadbIdx .loadbPc .loadbOff iw e1
  | 0x16 => decodeFour .loadxInd .loadxIdx .loadxPc .loadxOff iw e1
  | 0x17 => decodeFour .loadyInd .loadyIdx .loadyPc .loadyOff iw e1
  | 0x18 => decodeLoadi iw e1
  | 0x19 => decodeFour .storedInd .storedIdx .storedPc .storedOff iw e1
  | 0x1A => decodeFour .storebInd .storebIdx .storebPc .storebOff iw e1
  | 0x1B => decodeFour .storexInd .storexIdx .storexPc .storexOff iw e1
  | 0x1C => decodeFour .storeyInd .storeyIdx .storeyPc .storeyOff iw e1
  | 0x1D => decodeStorei iw e1
  | 0x1F => decodeInt iw
  | _ => .error .spareOpcode

/-! ### Lengths (R84) and whole instructions as bytes -/

/-- The number of words of an instruction, from OP and MODE alone (R84); 1 where R81 has no instruction. -/
def wordsOf (iw : Word) : Nat :=
  match (fOp iw).toNat, (fMode iw).toNat with
  | 0x03, 2 => 2
  | 0x04, 0 => 2
  | 0x07, 3 => 2
  | 0x08, 3 => 2
  | 0x09, 3 => 2
  | 0x0A, 3 => 2
  | 0x0B, 3 => 2
  | 0x0C, 3 => 2
  | 0x0D, 3 => 2
  | 0x0E, 3 => 2
  | 0x10, 3 => 2
  | 0x11, 1 => 2
  | 0x11, 3 => 2
  | 0x12, 0 => 3
  | 0x12, 1 => 2
  | 0x13, 0 => 3
  | 0x13, 1 => 2
  | 0x13, 2 => 2
  | 0x14, 2 => 2
  | 0x15, 2 => 2
  | 0x16, 2 => 2
  | 0x17, 2 => 2
  | 0x18, 1 => 2
  | 0x18, 3 => 2
  | 0x19, 2 => 2
  | 0x1A, 2 => 2
  | 0x1B, 2 => 2
  | 0x1C, 2 => 2
  | 0x1D, 1 => 2
  | 0x1D, 3 => 2
  | _, _ => 1

/-- The two bytes of a word in memory order: big-endian (R54). -/
def wordBytes (w : Word) : List Byte := [hiByte w, loByte w]

/-- The first word of a list of bytes, big-endian (R54), and the bytes after it. -/
def takeWord : List Byte → Option (Word × List Byte)
  | hi :: lo :: rest => some (hi ++ lo, rest)
  | _ => none

/-- The first instruction of a list of bytes and the bytes after it, or why there is none. -/
def decode (bs : List Byte) : Except Reject (Instr × List Byte) :=
  match takeWord bs with
  | none => .error .truncated
  | some (iw, r0) =>
    match wordsOf iw with
    | 1 => (decodeWords iw 0 0).map fun i => (i, r0)
    | 2 =>
      match takeWord r0 with
      | none => .error .truncated
      | some (e1, r1) => (decodeWords iw e1 0).map fun i => (i, r1)
    | _ =>
      match takeWord r0 with
      | none => .error .truncated
      | some (e1, r1) =>
        match takeWord r1 with
        | none => .error .truncated
        | some (e2, r2) => (decodeWords iw e1 e2).map fun i => (i, r2)

/-! ### Other operand layouts and register codes (R9: "treats decode as configuration") -/

/-- Bit k of the operand field as R82 lays it out, in a field of this machine (`OPERAND_LAYOUT`, D10). -/
def layoutBit (layout : List Nat) (f : BitVec 9) (k : Nat) : BitVec 1 :=
  BitVec.ofBool (match layout[k]? with
    | some j => f.getLsbD j
    | none => false)

/-- The operand field as R82 lays it out (`OPERAND_LAYOUT`, D10). -/
def canonField (layout : List Nat) (f : BitVec 9) : BitVec 9 :=
  layoutBit layout f 8 ++ layoutBit layout f 7 ++ layoutBit layout f 6 ++ layoutBit layout f 5 ++ layoutBit layout f 4 ++
    layoutBit layout f 3 ++ layoutBit layout f 2 ++ layoutBit layout f 1 ++ layoutBit layout f 0

/-- The code of R86 that a register code of this machine stands for (`REG_CODES`, D11). -/
def canonCode (codes : List (BitVec 4)) (c : BitVec 4) : BitVec 4 := (codes[c.toNat]?).getD 12

/-- The form has a register code in field R (R93 to R98, R103). -/
def hasCodeR (iw : Word) : Bool :=
  match (fOp iw).toNat, (fMode iw).toNat with
  | 0x04, _ => true
  | 0x05, _ => true
  | 0x06, 0 => true
  | 0x07, 0 => true
  | 0x18, 2 => false
  | 0x18, _ => true
  | 0x1D, 3 => true
  | op, _ => 0x08 ≤ op && op ≤ 0x10

/-- The form has a register code in field S (R94, R97, R98). -/
def hasCodeS (iw : Word) : Bool :=
  match (fOp iw).toNat, (fMode iw).toNat with
  | 0x05, mode => mode != 0
  | op, 0 => 0x08 ≤ op && op ≤ 0x10
  | _, _ => false

/-- An instruction word of this machine in the layout and the register codes of R82 and R86. OPCODE and MODE are the
source's own (R80) and stay. -/
def canonWord (cfg : Config) (iw : Word) : Word :=
  let f := canonField cfg.operandLayout (fOperand iw)
  let r := if hasCodeR iw then canonCode cfg.regCodes (f.extractLsb' 5 4) else f.extractLsb' 5 4
  let s := if hasCodeS iw then canonCode cfg.regCodes (f.extractLsb' 0 4) else f.extractLsb' 0 4
  iw.extractLsb' 9 7 ++ r ++ f.extractLsb' 4 1 ++ s

/-- The bytes of an instruction of this machine with the instruction word as `decode` reads it. -/
def canonBytes (cfg : Config) (bs : List Byte) : List Byte :=
  match takeWord bs with
  | some (iw, rest) => wordBytes (canonWord cfg iw) ++ rest
  | none => bs

/-! ### Encoding -/

/-- An instruction word from OP, MODE, bits 8:5 and bits 4:0 (R80, R82). -/
def iword (op : BitVec 5) (mode : BitVec 2) (r : BitVec 4) (low : BitVec 5) : Word :=
  op ++ mode ++ r ++ low

/-- The word of LOOKUP: `{00001, T[1:0], T[6:2], 00, n}` (R90). -/
def lookupWord (t : BitVec 7) (n : Idx) : Word :=
  (1 : BitVec 5) ++ t.extractLsb' 0 2 ++ t.extractLsb' 2 5 ++ (0 : BitVec 2) ++ n.bits

/-- The word of HALT #n: OP 0, MODE 01, bit 8 zero, the code in bits 7:0 (R89). -/
def haltWord (n : Byte) : Word := (0x00 : BitVec 5) ++ (1 : BitVec 2) ++ (0 : BitVec 1) ++ n

/-- The words of an Scc (R93). -/
def sccWords (c : Cond) (dst : Gpr) (v : Word) : List Word :=
  [iword 0x04 0 dst.code ((0 : BitVec 2) ++ c.code), v]

/-- The word of a Bcc.S (R99). -/
def bccSWords (c : Cond) (i : Imm5) : List Word := [iword 0x11 0 ((0 : BitVec 1) ++ c.code) i]

/-- The words of a Bcc.L (R99). -/
def bccLWords (c : Cond) (off : Word) : List Word := [iword 0x11 1 ((0 : BitVec 1) ++ c.code) 0, off]

/-- The words of an instruction (R89 to R103), the instruction word first. -/
def encodeWords : Instr → List Word
  | .nop => [iword 0x00 0 0 0]
  | .halt n => [haltWord n]
  | .shl4 n => [lookupWord 2 n]
  | .shr4 n => [lookupWord 3 n]
  | .asr4 n => [lookupWord 4 n]
  | .asr8 n => [lookupWord 5 n]
  | .mulb n => [lookupWord 6 n]
  | .recip n => [lookupWord 7 n]
  | .shl n => [lookupWord 8 n]
  | .shr n => [lookupWord 9 n]
  | .asr n => [lookupWord 10 n]
  | .rol n => [lookupWord 11 n]
  | .ror n => [lookupWord 12 n]
  | .swapb n => [lookupWord 13 n]
  | .high n => [lookupWord 14 n]
  | .low n => [lookupWord 15 n]
  | .lookup t n => [lookupWord t n]
  | .incXY n i => [iword 0x02 0 n.inB i]
  | .decXY n i => [iword 0x02 1 n.inB i]
  | .leaCopy n m => [iword 0x03 0 (pairAB m n) 0]
  | .leaIdx n m o => [iword 0x03 1 (pairAB m n) o.low]
  | .leaPc n off => [iword 0x03 2 n.inB 0, off]
  | .leaOff n m i => [iword 0x03 3 (pairAB m n) i]
  | .seq dst v => sccWords .eq dst v
  | .sne dst v => sccWords .ne dst v
  | .scs dst v => sccWords .cs dst v
  | .scc dst v => sccWords .cc dst v
  | .slt dst v => sccWords .lt dst v
  | .sgt dst v => sccWords .gt dst v
  | .sge dst v => sccWords .ge dst v
  | .sle dst v => sccWords .le dst v
  | .moveD dst n => [iword 0x05 0 dst.code n.low]
  | .moveS dst src => [iword 0x05 1 dst.code (inS src.code)]
  | .swapD n r => [iword 0x05 2 n.inB (inS r.code)]
  | .swapXY a b => [iword 0x05 3 a.code (inS b.code)]
  | .pushReg r p => [iword 0x06 0 r.code p.low]
  | .pushD p => [iword 0x06 1 0 p.low]
  | .pushXY n p => [iword 0x06 2 n.inB p.low]
  | .pushImm5 i p => [iword 0x06 3 p.inA i]
  | .popReg r p => [iword 0x07 0 r.code p.low]
  | .popD p => [iword 0x07 1 0 p.low]
  | .popXY n p => [iword 0x07 2 n.inB p.low]
  | .pushi v p => [iword 0x07 3 0 p.low, v]
  | .addReg dst src => [iword 0x08 0 dst.code (inS src.code)]
  | .addMem dst n => [iword 0x08 1 dst.code n.low]
  | .addImm5 dst i => [iword 0x08 2 dst.code i]
  | .addImm16 dst v => [iword 0x08 3 dst.code 0, v]
  | .adcReg dst src => [iword 0x09 0 dst.code (inS src.code)]
  | .adcMem dst n => [iword 0x09 1 dst.code n.low]
  | .adcImm5 dst i => [iword 0x09 2 dst.code i]
  | .adcImm16 dst v => [iword 0x09 3 dst.code 0, v]
  | .subReg dst src => [iword 0x0A 0 dst.code (inS src.code)]
  | .subMem dst n => [iword 0x0A 1 dst.code n.low]
  | .subImm5 dst i => [iword 0x0A 2 dst.code i]
  | .subImm16 dst v => [iword 0x0A 3 dst.code 0, v]
  | .sbcReg dst src => [iword 0x0B 0 dst.code (inS src.code)]
  | .sbcMem dst n => [iword 0x0B 1 dst.code n.low]
  | .sbcImm5 dst i => [iword 0x0B 2 dst.code i]
  | .sbcImm16 dst v => [iword 0x0B 3 dst.code 0, v]
  | .andReg dst src => [iword 0x0C 0 dst.code (inS src.code)]
  | .andMem dst n => [iword 0x0C 1 dst.code n.low]
  | .andImm5 dst i => [iword 0x0C 2 dst.code i]
  | .andImm16 dst v => [iword 0x0C 3 dst.code 0, v]
  | .orReg dst src => [iword 0x0D 0 dst.code (inS src.code)]
  | .orMem dst n => [iword 0x0D 1 dst.code n.low]
  | .orImm5 dst i => [iword 0x0D 2 dst.code i]
  | .orImm16 dst v => [iword 0x0D 3 dst.code 0, v]
  | .xorReg dst src => [iword 0x0E 0 dst.code (inS src.code)]
  | .xorMem dst n => [iword 0x0E 1 dst.code n.low]
  | .xorImm5 dst i => [iword 0x0E 2 dst.code i]
  | .xorImm16 dst v => [iword 0x0E 3 dst.code 0, v]
  | .notReg dst src => [iword 0x0F 0 dst.code (inS src.code)]
  | .notMem dst n => [iword 0x0F 1 dst.code n.low]
  | .notSelf dst => [iword 0x0F 2 dst.code 0]
  | .cmpReg dst src => [iword 0x10 0 dst.code (inS src.code)]
  | .cmpMem dst n => [iword 0x10 1 dst.code n.low]
  | .cmpImm5 dst i => [iword 0x10 2 dst.code i]
  | .cmpImm16 dst v => [iword 0x10 3 dst.code 0, v]
  | .beqS i => bccSWords .eq i
  | .bneS i => bccSWords .ne i
  | .bcsS i => bccSWords .cs i
  | .bccS i => bccSWords .cc i
  | .bltS i => bccSWords .lt i
  | .bgtS i => bccSWords .gt i
  | .bgeS i => bccSWords .ge i
  | .bleS i => bccSWords .le i
  | .beqL off => bccLWords .eq off
  | .bneL off => bccLWords .ne off
  | .bcsL off => bccLWords .cs off
  | .bccL off => bccLWords .cc off
  | .bltL off => bccLWords .lt off
  | .bgtL off => bccLWords .gt off
  | .bgeL off => bccLWords .ge off
  | .bleL off => bccLWords .le off
  | .braS i => [iword 0x11 2 0 i]
  | .braL off => [iword 0x11 3 0 0, off]
  | .jmp24 addr => [iword 0x12 0 0 0, (bankOf addr).setWidth 16, offsetOf addr]
  | .jmp16 addr => [iword 0x12 1 0 0, addr]
  | .jmpt n m => [iword 0x12 2 n.inA m.low]
  | .jmpxy n => [iword 0x12 3 n.inA 0]
  | .call24 addr => [iword 0x13 0 0 0, (bankOf addr).setWidth 16, offsetOf addr]
  | .call16 addr => [iword 0x13 1 0 0, addr]
  | .callr off => [iword 0x13 2 0 0, off]
  | .ret i => [iword 0x13 3 0 i]
  | .loaddInd r n => [iword 0x14 0 (pairAB n r) 0]
  | .loaddIdx r n m => [iword 0x14 1 (pairAB n r) m.low]
  | .loaddPc r off => [iword 0x14 2 r.inB 0, off]
  | .loaddOff r n i => [iword 0x14 3 (pairAB n r) i]
  | .loadbInd r n => [iword 0x15 0 (pairAB n r) 0]
  | .loadbIdx r n m => [iword 0x15 1 (pairAB n r) m.low]
  | .loadbPc r off => [iword 0x15 2 r.inB 0, off]
  | .loadbOff r n i => [iword 0x15 3 (pairAB n r) i]
  | .loadxInd r n => [iword 0x16 0 (pairAB n r) 0]
  | .loadxIdx r n m => [iword 0x16 1 (pairAB n r) m.low]
  | .loadxPc r off => [iword 0x16 2 r.inB 0, off]
  | .loadxOff r n i => [iword 0x16 3 (pairAB n r) i]
  | .loadyInd r n => [iword 0x17 0 (pairAB n r) 0]
  | .loadyIdx r n m => [iword 0x17 1 (pairAB n r) m.low]
  | .loadyPc r off => [iword 0x17 2 r.inB 0, off]
  | .loadyOff r n i => [iword 0x17 3 (pairAB n r) i]
  | .loadiImm5 dst i => [iword 0x18 0 dst.code i]
  | .loadiImm16 dst v => [iword 0x18 1 dst.code 0, v]
  | .loadxy n m => [iword 0x18 2 (pairAB m n) 0]
  | .loadp dst n off => [iword 0x18 3 dst.code n.low, off]
  | .loadpb dst n off => [iword 0x18 3 dst.code n.lowF, off]
  | .storedInd r n => [iword 0x19 0 (pairAB n r) 0]
  | .storedIdx r n m => [iword 0x19 1 (pairAB n r) m.low]
  | .storedPc r off => [iword 0x19 2 r.inB 0, off]
  | .storedOff r n i => [iword 0x19 3 (pairAB n r) i]
  | .storebInd r n => [iword 0x1A 0 (pairAB n r) 0]
  | .storebIdx r n m => [iword 0x1A 1 (pairAB n r) m.low]
  | .storebPc r off => [iword 0x1A 2 r.inB 0, off]
  | .storebOff r n i => [iword 0x1A 3 (pairAB n r) i]
  | .storexInd r n => [iword 0x1B 0 (pairAB n r) 0]
  | .storexIdx r n m => [iword 0x1B 1 (pairAB n r) m.low]
  | .storexPc r off => [iword 0x1B 2 r.inB 0, off]
  | .storexOff r n i => [iword 0x1B 3 (pairAB n r) i]
  | .storeyInd r n => [iword 0x1C 0 (pairAB n r) 0]
  | .storeyIdx r n m => [iword 0x1C 1 (pairAB n r) m.low]
  | .storeyPc r off => [iword 0x1C 2 r.inB 0, off]
  | .storeyOff r n i => [iword 0x1C 3 (pairAB n r) i]
  | .storeiImm5 i n => [iword 0x1D 0 n.inA i]
  | .storeiImm16 v n => [iword 0x1D 1 n.inA 0, v]
  | .storexy n m => [iword 0x1D 2 (pairAB m n) 0]
  | .storep src n off => [iword 0x1D 3 src.code n.low, off]
  | .storepb src n off => [iword 0x1D 3 src.code n.lowF, off]
  | .dint => [iword 0x1F 0 0 0]
  | .eint => [iword 0x1F 1 0 0]
  | .rti => [iword 0x1F 2 0 0]
  | .int => [iword 0x1F 3 0 0]

/-- The bytes of an instruction in memory order (R54, R57). -/
def encode (i : Instr) : List Byte := (encodeWords i).flatMap wordBytes

/-! ### The host's numbering of instruction bits -/

/-- The k-th 16-bit word of an instruction whose bits are `w`, of which the lowest `nbits` count. -/
def tableWord (nbits w k : Nat) : Word := BitVec.ofNat 16 ((w % 2 ^ nbits) >>> (16 * k))

/-- The six bytes, the longest instruction, of an instruction whose bits are `w`: the first word in bits 15:0, each
word big-endian (R54). -/
def tableBytes (nbits w : Nat) : List Byte :=
  wordBytes (tableWord nbits w 0) ++ wordBytes (tableWord nbits w 1) ++ wordBytes (tableWord nbits w 2)

/-- The instruction that `decode` reads from an instruction whose bits are `w`; none where it refuses. -/
def decodeTableWord (nbits w : Nat) : Option Instr :=
  match decode (tableBytes nbits w) with
  | .ok (i, _) => some i
  | .error _ => none

end Sys2Proof
end

