-- ==== Sys2Proof/Machine/Defaults.lean ====
section
/-!
DEFINITION. The defaults of the parameters: "the value in `92_eei_decisions.md` is the default this spec chose"
(00_scope.md R8).
-/

namespace Sys2Proof.Machine

/-- The same value in all four registers. -/
def Quad.all {α : Type} (a : α) : Quad α := ⟨a, a, a, a⟩

end Sys2Proof.Machine

namespace Sys2Proof

open Sys2Proof.Machine

/-- The map of R51 with the kinds of decision D33: two banks of ROM, RAM, and memory-mapped I/O. Reserved/Expansion and the
range that the map does not list are in no row, so they have no kind (log 6). -/
def Config.defaultMap : List Region :=
  [⟨0x000000, 0x0FFFFF, .rom, .rom, .rom⟩,
    ⟨0x100000, 0x1FFFFF, .rom, .rom, .rom⟩,
    ⟨0x200000, 0x7FFFFF, .ram, .ram, .ram⟩,
    ⟨0xFF0000, 0xFFFFFF, .device, .device, .device⟩]

/-- After reset `pc` is $00_0000 and IE and `halted` are 0 (R351, decision D31). The spec gives the general registers, the
flags and `halt_code` no value; the zeros here are the model's (logs 1 and 2). -/
def Config.defaultReset : ResetState where
  d := Quad.all 0
  x := Quad.all 0
  y := Quad.all 0
  pc := 0
  c := false
  z := false
  n := false
  v := false
  ie := false
  halted := false
  haltCode := 0

/-- The default of every parameter (92_eei_decisions.md). -/
def Config.default : Config where
  memMap := Config.defaultMap
  vectorBase := 0x200000
  byteOrder := .big
  misaligned := .refuse
  pcRelBase := .nextPc
  operandLayout := [0, 1, 2, 3, 4, 5, 6, 7, 8]
  regCodes := [0, 1, 2, 3, 4, 5, 6, 7, 8, 9, 10, 11, 12, 13, 14, 15]
  lookupAddr := { base := 0, pageStride := 65536, entryStride := 2 }
  trashedFlags := .draw
  intEntry := { clearIe := true, restoreIe := true, inStream := true }
  haltWake := .never
  resetState := Config.defaultReset

end Sys2Proof
end

