-- ==== Sys2Proof/Machine/State.lean ====
section
/-!
DEFINITION. The state of the K16 as plain data (10_state.md), the reasons for which a step can stop, and the state
right after reset (R42, R351).
-/

namespace Sys2Proof.Machine

/-- The bytes that something has put at addresses, as a list with the addresses strictly rising. A byte that is not listed
holds no value (R42, R43). -/
abbrev Memory := List Host.Cell

/-- A bit for each of the four arithmetic flags of SR (R29): their values, or which of them. -/
structure Flags where
  c : Bool
  z : Bool
  n : Bool
  v : Bool
deriving DecidableEq, Repr

/-- No flag. -/
def Flags.none : Flags := ⟨false, false, false, false⟩

/-- All four flags. -/
def Flags.all : Flags := ⟨true, true, true, true⟩

/-- An output event: a store to a device address (R52, "a device write an output event"). A byte store and a word
store are one bus access each (R67). -/
inductive DevWrite
  | byte (a : Addr) (v : Byte)
  | word (a : Addr) (v : Word)
deriving DecidableEq, Repr

/-- Why the machine stops with a fault: for no reason. "The K16 raises no synchronous exception" (R310), so this type has
no constructor; what the spec calls refused is a `Refusal` (log 38). -/
inductive Fault
deriving DecidableEq, Repr

/-- Why there is no step: the spec's "refused" (R16), "the source gives the situation no meaning". -/
inductive Refusal
  /-- The instruction has no meaning in this model yet. Raised by `exec` alone. Safe: a stop. -/
  | notModelled (mnemonic : String)
  /-- The bytes at the program counter are a reserved encoding (R104). Raised by `step`. Safe: a stop. -/
  | reservedEncoding (why : Reject)
  /-- A word access at an odd address (R56; `MISALIGNED`, decision D2). Raised by `readWordAs` and `writeWord`. Safe: a
  stop. -/
  | misaligned
  /-- An instruction fetch at an odd program counter (R57), and an RTI that pops an odd low word (R296; `MISALIGNED`,
  decision D2). Raised by `fetch` and `interruptReturn`. Safe: a stop. -/
  | oddPc
  /-- An access (load, store, fetch, stack or vector access) to an address to which the memory map gives no kind for it
  (R52: "*none* (the access is refused)"). Raised by `readByteAs` and `writeByte`. Safe: a stop. -/
  | unmapped
  /-- A store to ROM (R52, decision D33). Raised by `writeByte`. Safe: a stop. -/
  | romStore
  /-- PUSH or POP of a half of the stack pair, or of the stack pair itself (R283, decision D37). Raised by the
  meanings of PUSH and POP of a register and of a pair. Safe: a stop. -/
  | selfStack
  /-- The word INT in the instruction stream of a machine whose `INT_ENTRY` refuses it (R297: "A model that prefers to err
  toward unprovable may refuse `FE00`"; decision D29). Raised by the meaning of INT, never in the default configuration.
  Safe: a stop. -/
  | intInStream
  /-- A read of a flag left undefined, on a machine whose `TRASHED_FLAGS` refuses it (R44: "a model that types registers as
  "written or not" may equally refuse that read"; decision D24). Raised by `readingFlags`, never in the default configuration.
  Safe: a stop. -/
  | trashedFlag
deriving DecidableEq, Repr

/-- The state of the machine (10_state.md), and five fields of the model: `trashed`, `irq`, `out`, `draws` and `cfg`. XY
pairs, PCL, PCH, SR and LVL are no fields: they are computed (R23, R25, R29, R35). -/
structure State where
  /-- D0 to D3 (R20). -/
  d : Quad Word
  /-- X0 to X3 (R21). -/
  x : Quad Word
  /-- Y0 to Y3 (R22). -/
  y : Quad Byte
  /-- The program counter (R25). -/
  pc : Addr
  /-- Carry, SR bit 0 (R30). -/
  c : Bool
  /-- Zero, SR bit 1 (R31). -/
  z : Bool
  /-- Negative, SR bit 2 (R32). -/
  n : Bool
  /-- Overflow, SR bit 3 (R33). -/
  v : Bool
  /-- Interrupt enable, SR bit 7 (R34). -/
  ie : Bool
  /-- The processor has executed HALT (R38). -/
  halted : Bool
  /-- The code of that HALT (R38). -/
  haltCode : Byte
  /-- The bytes stored in RAM (R41, R50, R52). -/
  mem : Memory
  /-- The bytes of the ROM image (R41, R42, R52): loaded from outside, changed by no step and no reset. -/
  rom : Memory
  /-- The model's own: the flags that INC or DEC of an XY pair or LEA has left undefined and nothing has written since (R44;
  log 49). -/
  trashed : Flags
  /-- The model's own: the interrupt request lines at this boundary and at the coming ones (R39), bit k for IRQk;
  past the end of the list no line is asserted (log 9). -/
  irq : List Byte
  /-- The model's own: the output events so far, newest first (log 8). -/
  out : List DevWrite
  /-- The model's own: how many free values have been drawn (log 13). -/
  draws : Nat
  /-- The model's own: the configuration (R8). No step changes it (log 45). -/
  cfg : Config
deriving DecidableEq, Repr

/-- A machine of a configuration right after reset (R42, R351): the registers as `RESET_STATE` has them. No byte of RAM has
a value, and the ROM image, loaded from outside, is still empty (log 5). -/
def State.ofReset (cfg : Config) : State where
  d := cfg.resetState.d
  x := cfg.resetState.x
  y := cfg.resetState.y
  pc := cfg.resetState.pc
  c := cfg.resetState.c
  z := cfg.resetState.z
  n := cfg.resetState.n
  v := cfg.resetState.v
  ie := cfg.resetState.ie
  halted := cfg.resetState.halted
  haltCode := cfg.resetState.haltCode
  mem := []
  rom := []
  trashed := Flags.none
  irq := []
  out := []
  draws := 0
  cfg := cfg

/-- The machine right after reset, in the default configuration: `pc` is $00_0000, IE and `halted` are 0 (R42, R351; logs 1
to 3, 5). -/
def State.reset : State := State.ofReset Config.default

end Sys2Proof.Machine
end

