-- ==== Sys2Proof/Machine/Flags.lean ====
section
/-!
DEFINITION. What the ALU computes: results and flags (42_arithmetic.md R171, 43_logical.md R190), the conditions that read
flags (30_encoding.md R87), and which flags hold no value (10_state.md R44).
-/

namespace Sys2Proof.Machine

/-- A 16-bit result and the flags that go with it. -/
structure AluOut where
  res : Word
  flags : Flags
deriving DecidableEq, Repr

/-- The flags of a state. -/
def State.flags (s : State) : Flags := ⟨s.c, s.z, s.n, s.v⟩

/-- The state with all four flags written. -/
def State.setFlags (s : State) (f : Flags) : State :=
  { s with c := f.c, z := f.z, n := f.n, v := f.v, trashed := Flags.none }

/-- The flags of AND, OR, XOR and NOT (R190): C is cleared, Z and N follow the result, V keeps the value it had. -/
def State.setLogicFlags (s : State) (res : Word) : State :=
  { s with c := false, z := res == 0, n := res.msb, trashed := { Flags.none with v := s.trashed.v } }

/-- The flags `need` can be read (R44): each has been written since it was left undefined, or `TRASHED_FLAGS` gives the draw
to a read of it. -/
def State.flagsOk (s : State) (need : Flags) : Bool :=
  s.cfg.trashedFlags == .draw ||
    !(need.c && s.trashed.c || need.z && s.trashed.z || need.n && s.trashed.n || need.v && s.trashed.v)

/-- "the signed value of the true result does not fit in 16 bits" (R171). -/
def overflows (t : Int) : Bool := decide (t < -32768) || decide (32767 < t)

/-- ADD and ADC (R171): the 17-bit sum `u(a) + u(b) + cin`; C is its bit 16. -/
def addOut (a b : Word) (cin : Bool) : AluOut :=
  let sum := a.toNat + b.toNat + cin.toNat
  let res := BitVec.ofNat 16 sum
  { res := res
    flags :=
      { c := decide (65536 ≤ sum)
        z := res == 0
        n := res.msb
        v := overflows (a.toInt + b.toInt + (cin.toNat : Int)) } }

/-- SUB, SBC and CMP (R171): the 17-bit sum `u(a) + u(~b) + cin`; C is its bit 16, so C = 1 means no borrow (R30). -/
def subOut (a b : Word) (cin : Bool) : AluOut :=
  let sum := a.toNat + (~~~b).toNat + cin.toNat
  let res := BitVec.ofNat 16 sum
  { res := res
    flags :=
      { c := decide (65536 ≤ sum)
        z := res == 0
        n := res.msb
        v := overflows (a.toInt - b.toInt - (1 - (cin.toNat : Int))) } }

/-- Whether a condition is true on the flags (R87). -/
def condHolds (c : Cond) (f : Flags) : Bool :=
  match c with
  | .eq => f.z
  | .ne => !f.z
  | .cs => f.c
  | .cc => !f.c
  | .lt => f.n != f.v
  | .gt => !f.z && (f.n == f.v)
  | .ge => f.n == f.v
  | .le => f.z || (f.n != f.v)

/-- The flags that a condition reads (R87). -/
def condReads : Cond → Flags
  | .eq | .ne => { Flags.none with z := true }
  | .cs | .cc => { Flags.none with c := true }
  | .lt | .ge => { Flags.none with n := true, v := true }
  | .gt | .le => { Flags.none with z := true, n := true, v := true }

end Sys2Proof.Machine
end

