-- ==== Sys2Proof/Machine/Memory.lean ====
section
/-!
DEFINITION. Memory as stored bytes, the memory map, and the words that bytes make (20_memory.md sections 1 and 2).
-/

namespace Sys2Proof.Machine

/-- The byte stored at an address, if something has written it. -/
def Memory.get? : Memory → Nat → Option Byte
  | [], _ => none
  | (k, v) :: m, a => if a = k then some v else Memory.get? m a

/-- Memory after a byte store: the cell of the address is replaced or put in its place, no other cell changes. -/
def Memory.set : Memory → Nat → Byte → Memory
  | [], a, v => [(a, v)]
  | (k, w) :: m, a, v =>
    if a < k then (a, v) :: (k, w) :: m
    else if a = k then (a, v) :: m
    else (k, w) :: Memory.set m a v

/-- The canonical form: addresses strictly rising, all inside the 24-bit space. What an unlisted address holds is no
value, so no cell can be equal to it. -/
abbrev Memory.wf (m : Memory) : Prop :=
  (m.map Prod.fst).Pairwise (· < ·) ∧ ∀ c ∈ m, c.1 < 2 ^ 24

/-- What the byte of RAM at an address reads as: the stored byte, and a free value of that address while nothing has
written it (R52; 93_implementation_defined.md U13; log 4). -/
def State.ramByte (s : State) (a : Addr) : Byte := (s.mem.get? a.toNat).getD (Config.unwrittenByte a.toNat)

/-- What the byte of ROM at an address reads as: that of the image, and a free value of that address outside it (R52, R203;
93_implementation_defined.md U12; log 4). -/
def State.romByte (s : State) (a : Addr) : Byte := (s.rom.get? a.toNat).getD (Config.blankRomByte a.toNat)

/-! ### The memory map -/

/-- The address is in a row of the map. -/
def inRegion (r : Region) (a : Addr) : Bool := decide (r.first.toNat ≤ a.toNat) && decide (a.toNat ≤ r.last.toNat)

/-- What the map makes of an address for a kind of access (`MEM_MAP`, R52): what the first row that has it says, and none
where no row has it. -/
def kindIn (map : List Region) (acc : Access) (a : Addr) : MemKind :=
  match map.find? fun r => inRegion r a with
  | some r => r.kind acc
  | none => .none

/-- What the machine's map makes of an address for a kind of access. -/
def State.kind (s : State) (acc : Access) (a : Addr) : MemKind := kindIn s.cfg.memMap acc a

/-- The byte `v` put at an address from outside the machine, where accesses of a kind read it: in RAM or in the ROM image
(log 5). An address that is neither keeps no byte. -/
def State.putByte (acc : Access) (a : Addr) (v : Byte) (s : State) : State :=
  match s.kind acc a with
  | .ram => { s with mem := s.mem.set a.toNat v }
  | .rom => { s with rom := s.rom.set a.toNat v }
  | .device => s
  | .none => s

/-- Bytes put at rising addresses from outside the machine. -/
def State.putBytes (acc : Access) : Addr → List Byte → State → State
  | _, [], s => s
  | a, b :: bs, s => State.putBytes acc (a + 1) bs (s.putByte acc a b)

/-! ### Words -/

/-- The address is even: what a word access must have (R56). -/
def evenAddr (a : Addr) : Bool := !a.getLsbD 0

/-- The address of the word that has the byte at `a`: bit 0 is ignored. -/
def wordBase (a : Addr) : Addr := if evenAddr a then a else a - 1

/-- A word access at the address has a meaning (R56): the address is even, or `MISALIGNED` ignores bit 0. -/
def State.wordOk (s : State) (a : Addr) : Bool := evenAddr a || s.cfg.misaligned == .ignoreBit0

/-- The word of two bytes, `b0` at the lower address (R54; `BYTE_ORDER`). -/
def wordOfBytes (o : ByteOrder) (b0 b1 : Byte) : Word :=
  match o with
  | .big => b0 ++ b1
  | .little => b1 ++ b0

/-- The byte of a word that is at the lower address (R54; `BYTE_ORDER`). -/
def lowerByte (o : ByteOrder) (v : Word) : Byte :=
  match o with
  | .big => hiByte v
  | .little => loByte v

/-- The byte of a word that is at the higher address (R54; `BYTE_ORDER`). -/
def upperByte (o : ByteOrder) (v : Word) : Byte :=
  match o with
  | .big => loByte v
  | .little => hiByte v

/-- The bytes of an instruction, as `encode` gives them, in the order in which memory holds them (R54: "Instruction fetch
uses the same order"). -/
def inOrder (o : ByteOrder) : List Byte → List Byte
  | hi :: lo :: rest =>
    match o with
    | .big => hi :: lo :: inOrder o rest
    | .little => lo :: hi :: inOrder o rest
  | bs => bs

end Sys2Proof.Machine
end

