-- ==== Sys2Proof/Machine/Operands.lean ====
section
/-!
DEFINITION. Operand forms: reading and writing registers by class (10_state.md R20 to R36), the program counter as an
operand (R26), and effective addresses (20_memory.md R60 to R64).
-/

namespace Sys2Proof.Machine

/-! ### Registers -/

/-- The register of a number. -/
def Quad.get {α : Type} (q : Quad α) : Idx → α
  | .i0 => q.r0
  | .i1 => q.r1
  | .i2 => q.r2
  | .i3 => q.r3

/-- The four registers with one of them written. -/
def Quad.set {α : Type} (q : Quad α) (i : Idx) (a : α) : Quad α :=
  match i with
  | .i0 => { q with r0 := a }
  | .i1 => { q with r1 := a }
  | .i2 => { q with r2 := a }
  | .i3 => { q with r3 := a }

/-- `rd16` of a general register (R27): a Y register is zero-extended (R22). -/
def State.readG (s : State) : Gpr → Word
  | .d i => s.d.get i
  | .x i => s.x.get i
  | .y i => (s.y.get i).setWidth 16

/-- `wr16` of a general register (R28): a Y register receives bits 7:0 (R22). -/
def State.writeG (s : State) (g : Gpr) (w : Word) : State :=
  match g with
  | .d i => { s with d := s.d.set i w }
  | .x i => { s with x := s.x.set i w }
  | .y i => { s with y := s.y.set i (loByte w) }

/-- `XY[n]`, the value `{Y[n], X[n]}` (R23). -/
def State.xy (s : State) (i : Idx) : Addr := mkAddr (s.y.get i) (s.x.get i)

/-- `XY[n] <- a`: both halves are written (R12, R23). -/
def State.setXY (s : State) (i : Idx) (a : Addr) : State :=
  { s with x := s.x.set i (offsetOf a), y := s.y.set i (bankOf a) }

/-! ### The status register (R29, R35, R36) -/

/-- The interrupt request lines at the present boundary (R39): no line once the input is used up. -/
def State.irqNow (s : State) : Byte := s.irq.headD 0

/-- LVL of the request lines (R35): `7 - k` for the highest-numbered asserted line IRQk, and 7 when none is
asserted. -/
def levelOf (lines : Byte) : BitVec 3 :=
  if lines.getLsbD 7 then 0
  else if lines.getLsbD 6 then 1
  else if lines.getLsbD 5 then 2
  else if lines.getLsbD 4 then 3
  else if lines.getLsbD 3 then 4
  else if lines.getLsbD 2 then 5
  else if lines.getLsbD 1 then 6
  else 7

/-- `SR = {IE, LVL[2:0], V, N, Z, C}`, LVL sampled at the read (R29, R35). -/
def State.sr (s : State) : Byte :=
  BitVec.ofBool s.ie ++ levelOf s.irqNow ++ BitVec.ofBool s.v ++ BitVec.ofBool s.n ++ BitVec.ofBool s.z ++
    BitVec.ofBool s.c

/-- SR as a 16-bit operand: zero-extended (R27, R36). -/
def State.srWord (s : State) : Word := s.sr.setWidth 16

/-- `wr16` of SR (R28): V, N, Z, C from bits 3 to 0 and nothing else. -/
def State.writeSr (s : State) (w : Word) : State :=
  s.setFlags ⟨w.getLsbD 0, w.getLsbD 1, w.getLsbD 2, w.getLsbD 3⟩

/-! ### The program counter -/

/-- `next_pc` of an instruction of `len` bytes: the address of the instruction that follows in memory (R15, R26). -/
def State.nextPc (s : State) (len : Nat) : Addr := s.pc + BitVec.ofNat 24 len

/-- What a rule reads as "PC" in an instruction of `len` bytes (R26; `PC_REL_BASE`): `next_pc`, or the instruction's own
address. -/
def State.pcBase (s : State) (len : Nat) : Addr :=
  match s.cfg.pcRelBase with
  | .nextPc => s.nextPc len
  | .thisPc => s.pc

/-- The end of an instruction that does not transfer control: `pc <- next_pc` (R26). -/
def State.advance (s : State) (len : Nat) : State := { s with pc := s.nextPc len }

/-- A control transfer: `pc` is written with the target (R240). -/
def State.jump (s : State) (target : Addr) : State := { s with pc := target }

/-- A target inside the bank of PC: `{next_pc[23:16], v}` (R28, R248, R249). -/
def State.sameBank (s : State) (len : Nat) (v : Word) : Addr := mkAddr (bankOf (s.pcBase len)) v

/-! ### Operand classes of MOVE, PUSH and POP -/

/-- The value of a MOVE source (R27, R142): PCH and PCL read PC. -/
def State.readMoveSrc (s : State) (len : Nat) : MoveSrc → Word
  | .x i => s.readG (.x i)
  | .y i => s.readG (.y i)
  | .sr => s.srWord
  | .pch => (bankOf (s.pcBase len)).setWidth 16
  | .pcl => offsetOf (s.pcBase len)

/-- The flags that reading a MOVE source reads: all four for SR (R36). -/
def moveSrcReads : MoveSrc → Flags
  | .x _ | .y _ | .pch | .pcl => Flags.none
  | .sr => Flags.all

/-- The state after a MOVE of `w`, `len` bytes long, program counter included (R28, R134, R141, R143). -/
def State.finishMove (s : State) (len : Nat) (dst : MoveDst) (w : Word) : State :=
  match dst with
  | .gpr g => (s.writeG g w).advance len
  | .sr => (s.writeSr w).advance len
  | .pcl => s.jump (s.sameBank len w)

/-- The value of the register of a PUSH (R27, R274). -/
def State.readStackReg (s : State) : StackReg → Word
  | .gpr g => s.readG g
  | .sr => s.srWord

/-- The flags that reading the register of a PUSH reads: all four for SR (R36). -/
def stackRegReads : StackReg → Flags
  | .gpr _ => Flags.none
  | .sr => Flags.all

/-- The register of a POP written (R28, R278, R281). -/
def State.writeStackReg (s : State) (r : StackReg) (w : Word) : State :=
  match r with
  | .gpr g => s.writeG g w
  | .sr => s.writeSr w

/-- The register is a half of the pair `p` (R283). -/
def halfOf (r : StackReg) (p : Idx) : Bool :=
  match r with
  | .gpr (.d _) => false
  | .gpr (.x i) => i == p
  | .gpr (.y i) => i == p
  | .sr => false

/-- The general register that an X or Y operand is. -/
def xyGpr : XYReg → Gpr
  | .x i => .x i
  | .y i => .y i

/-! ### Immediates and effective addresses -/

/-- IMM5 as a 16-bit operand: zero-extended (R88). -/
def imm5Word (i : Imm5) : Word := i.setWidth 16

/-- IMM5 as an address offset: zero-extended (R88). -/
def imm5Addr (i : Imm5) : Addr := i.setWidth 24

/-- Mode 00, `[XYn]` (R60). -/
def State.eaInd (s : State) (n : Idx) : Addr := s.xy n

/-- Mode 01, `[XYn+Dm]`: the index is zero-extended (R61). -/
def State.eaIdx (s : State) (n m : Idx) : Addr := s.xy n + (s.d.get m).setWidth 24

/-- Mode 10, PC-relative, for an instruction of `len` bytes: the offset is sign-extended (R62, R88). -/
def State.eaPc (s : State) (len : Nat) (off : Word) : Addr := s.pcBase len + off.signExtend 24

/-- Mode 11, `[XYn+#imm5]`: the offset is zero-extended (R63). -/
def State.eaOff (s : State) (n : Idx) (i : Imm5) : Addr := s.xy n + imm5Addr i

/-- Paged, `Yn, [#imm16]`: `{Y[n], imm16}`, no addition (R64). -/
def State.eaPaged (s : State) (n : Idx) (off : Word) : Addr := mkAddr (s.y.get n) off

end Sys2Proof.Machine
end

