-- ==== Sys2Proof/Machine/Ops.lean ====
section
/-!
DEFINITION. The named operations of the machine: memory accesses (20_memory.md R54 to R59), stacks (R14, 47_stack.md
R270), reads of free flags (R44), taking an interrupt and returning from one (60_exceptions.md R314, R316, R318), reset
(R351).
-/

namespace Sys2Proof.Machine

/-- What an operation answers: a value, a fault or a refusal. -/
abbrev Res (α : Type) := Host.Outcome α Fault Refusal

/-- First `r`, then `k` of what it answers; a stop stays a stop. -/
def Res.bind {α β : Type} (r : Res α) (k : α → Res β) : Res β :=
  match r with
  | .next a => k a
  | .fault e => .fault e
  | .refused e => .refused e

/-! ### Memory accesses -/

/-- The state after `k` free values have been drawn (R16). -/
def State.drawn (s : State) (k : Nat) : State := { s with draws := s.draws + k }

/-- `MemRead(a, 1)` for a kind of access (R13, R55, R59), by the kind of the address for it (R52): a byte of RAM, of the ROM
image, or a draw. -/
def readByteAs (acc : Access) (a : Addr) (s : State) : Res (Byte × State) :=
  match s.kind acc a with
  | .ram => .next (s.ramByte a, s)
  | .rom => .next (s.romByte a, s)
  | .device => .next (Config.deviceByte s.draws a, s.drawn 1)
  | .none => .refused .unmapped

/-- Both bytes of the word at an even address are a device's for a kind of access: the word access is one bus access of the
device (R67). -/
def State.deviceWordAt (s : State) (acc : Access) (b : Addr) : Bool :=
  s.kind acc b == .device && s.kind acc (b + 1) == .device

/-- `MemRead(a, 2)` for a kind of access (R13, R54): refused at an odd address (R56), else one read of a device (R67) or the
reads of the two bytes, each by the kind of its own address (R52; log 46). -/
def readWordAs (acc : Access) (a : Addr) (s : State) : Res (Word × State) :=
  let b := wordBase a
  if s.wordOk a then
    if s.deviceWordAt acc b then .next (Config.deviceWord s.draws b, s.drawn 1)
    else
      Res.bind (readByteAs acc b s) fun lower =>
        Res.bind (readByteAs acc (b + 1) lower.2) fun upper =>
          .next (wordOfBytes s.cfg.byteOrder lower.1 upper.1, upper.2)
  else .refused .misaligned

/-- `MemRead(a, 1)` as a data read (R13, R55, R59). -/
def readByte (a : Addr) (s : State) : Res (Byte × State) := readByteAs .load a s

/-- `MemRead(a, 2)` as a data read (R13, R54). -/
def readWord (a : Addr) (s : State) : Res (Word × State) := readWordAs .load a s

/-- `MemWrite(a, 1, v)` (R13, R59), by the kind of the address for a store (R52). -/
def writeByte (a : Addr) (v : Byte) (s : State) : Res State :=
  match s.kind .store a with
  | .ram => .next { s with mem := s.mem.set a.toNat v }
  | .rom => .refused .romStore
  | .device => .next { s with out := .byte a v :: s.out }
  | .none => .refused .unmapped

/-- `MemWrite(a, 2, v)` (R13, R54): refused at an odd address (R56), else one store to a device (R67) or the stores of the two
bytes, each by the kind of its own address (R52; log 46). -/
def writeWord (a : Addr) (v : Word) (s : State) : Res State :=
  let b := wordBase a
  if s.wordOk a then
    if s.deviceWordAt .store b then .next { s with out := .word b v :: s.out }
    else
      Res.bind (writeByte b (lowerByte s.cfg.byteOrder v) s) fun t =>
        writeByte (b + 1) (upperByte s.cfg.byteOrder v) t
  else .refused .misaligned

/-- `MemRead24(a)`: the low byte of the word at `a`, then the word at `a + 2` (R58). -/
def read24 (a : Addr) (s : State) : Res (Addr × State) :=
  Res.bind (readWord a s) fun hi =>
    Res.bind (readWord (a + 2) hi.2) fun lo =>
      .next (mkAddr (loByte hi.1) lo.1, lo.2)

/-- `MemWrite24(a, v)`: the zero-extended bank at `a`, then bits 15:0 at `a + 2` (R58). -/
def write24 (a v : Addr) (s : State) : Res State :=
  Res.bind (writeWord a ((bankOf v).setWidth 16) s) fun t => writeWord (a + 2) (offsetOf v) t

/-! ### Stacks -/

/-- `Push16(p, v)`: the pair is decremented, then the word is stored at the new pointer (R14, R270). -/
def push16 (p : Idx) (v : Word) (s : State) : Res State :=
  let sp := s.xy p - 2
  writeWord sp v (s.setXY p sp)

/-- `Pop16(p)`: the word is read at the pointer, then the pair is incremented (R14, R270). -/
def pop16 (p : Idx) (s : State) : Res (Word × State) :=
  let sp := s.xy p
  Res.bind (readWord sp s) fun r => .next (r.1, r.2.setXY p (sp + 2))

/-- The pushes of a call and of an interrupt: bits 15:0 of the return address, then its zero-extended bank, on XY3
(R251, R314). -/
def pushPc (ret : Addr) (s : State) : Res State :=
  Res.bind (push16 .i3 (offsetOf ret) s) fun t => push16 .i3 ((bankOf ret).setWidth 16) t

/-- The pops of RET and RTI: the bank word, of which bits 15:8 are ignored, then bits 15:0, from XY3 (R255, R318). -/
def popPc (s : State) : Res (Addr × State) :=
  Res.bind (pop16 .i3 s) fun hi =>
    Res.bind (pop16 .i3 hi.2) fun lo =>
      .next (mkAddr (loByte hi.1) lo.1, lo.2)

/-! ### Free flags -/

/-- "Trashed" flags: each of C, Z, N, V becomes a draw, and is left undefined until it is written (R44, R165). -/
def State.trashFlags (s : State) : State :=
  { (s.setFlags
      ⟨Config.freeBit s.draws, Config.freeBit (s.draws + 1), Config.freeBit (s.draws + 2),
        Config.freeBit (s.draws + 3)⟩).drawn 4 with trashed := Flags.all }

/-- What an instruction that reads the flags `need` answers: `r`, or, where `TRASHED_FLAGS` refuses the read of one of them, a
refusal (R44, decision D24; log 49). -/
def readingFlags {α : Type} (need : Flags) (s : State) (r : Res α) : Res α :=
  if s.flagsOk need then r else .refused .trashedFlag

/-- What an instruction that reads C alone answers: ADC, SBC, ROL and ROR (R30). -/
def readingC {α : Type} (s : State) (r : Res α) : Res α := readingFlags { Flags.none with c := true } s r

/-! ### Taking an interrupt and returning from one -/

/-- Interrupt entry (R314): the return address and then SR, with IE as it was, are pushed on XY3; IE is cleared
(`INT_ENTRY`); `pc` is the handler's address from the vector, at the absolute address `VECTOR_BASE` (R316). C, Z, N, V,
which SR reads (R30), and every other register stay. -/
def interruptEntry (ret : Addr) (s : State) : Res State :=
  readingFlags Flags.all s <|
    Res.bind (pushPc ret s) fun t =>
      Res.bind (push16 .i3 s.srWord t) fun u =>
        Res.bind (read24 u.cfg.vectorBase { u with ie := u.ie && !u.cfg.intEntry.clearIe }) fun h =>
          .next (h.2.jump h.1)

/-- Return from an interrupt (R296, R318): SR, then the return address are popped from XY3; C, Z, N, V and, by `INT_ENTRY`,
IE come from the popped SR, LVL and bits 15:8 of it are discarded. An odd low word of the return address is refused. -/
def interruptReturn (s : State) : Res State :=
  Res.bind (pop16 .i3 s) fun sr =>
    Res.bind (popPc sr.2) fun ret =>
      if s.wordOk ret.1 then
        .next ({ (ret.2.writeSr sr.1) with
            ie := if s.cfg.intEntry.restoreIe then sr.1.getLsbD 7 else s.ie }.jump ret.1)
      else .refused .oddPc

/-- An interrupt is accepted at this boundary (R313): not halted (but see `HALT_WAKE`), IE = 1 and a line asserted. -/
def State.accepts (s : State) : Bool :=
  (!s.halted || s.cfg.haltWake == .interrupt) && s.ie && s.irqNow != 0

/-! ### Fetching -/

/-- `k` words from `a` on, each as its high and its low byte (R57). -/
def fetchWords : Nat → Addr → State → Res (List Byte × State)
  | 0, _, s => .next ([], s)
  | k + 1, a, s =>
    Res.bind (readWordAs .fetch a s) fun r =>
      Res.bind (fetchWords k (a + 2) r.2) fun rest =>
        .next (wordBytes r.1 ++ rest.1, rest.2)

/-- The bytes of the instruction at `pc` (R57, R84): the instruction word, which gives the length, and the extension
words, each as its high and its low byte. An odd `pc` is refused. -/
def fetch (s : State) : Res (List Byte × State) :=
  if s.wordOk s.pc then
    Res.bind (readWordAs .fetch s.pc s) fun r =>
      Res.bind (fetchWords (wordsOf r.1 - 1) (s.pc + 2) r.2) fun rest =>
        .next (wordBytes r.1 ++ rest.1, rest.2)
  else .refused .oddPc

/-! ### Reset as an event -/

/-- Reset of a machine (R351), not a step: the reset state of its configuration, with the ROM image kept. No byte of RAM
keeps its value ("whether RAM survives a reset is not stated and a model must not rely on it"); the input, the output and the
count of draws stay, so that later free values are new ones. -/
def applyReset (s : State) : State :=
  { State.ofReset s.cfg with
    rom := s.rom
    irq := s.irq
    out := s.out
    draws := s.draws }

end Sys2Proof.Machine
end

