-- ==== Sys2Proof/Machine/Arith.lean ====
section
/-!
DEFINITION. Arithmetic (42_arithmetic.md): ADD, ADC, SUB, SBC, and INC and DEC of an XY pair.
-/

namespace Sys2Proof.Machine

/-- The end of a two-operand instruction of `len` bytes: destination and flags are written (R170, R171, R176). -/
def aluTo (dst : Gpr) (o : AluOut) (len : Nat) (s : State) : State := ((s.writeG dst o.res).setFlags o.flags).advance len

/-- Mode 01: the second operand is the word at `XY[n]`, read before any register is written (R170, R183). -/
def withMem (n : Idx) (s : State) (k : Word → State → State) : Res State :=
  Res.bind (readWord (s.xy n) s) fun r => .next (k r.1 r.2)

/-- `dst + b` (R172). -/
def addTo (dst : Gpr) (len : Nat) (b : Word) (s : State) : State := aluTo dst (addOut (s.readG dst) b false) len s

/-- `dst + b + C` (R173). -/
def adcTo (dst : Gpr) (len : Nat) (b : Word) (s : State) : State := aluTo dst (addOut (s.readG dst) b s.c) len s

/-- `dst - b` (R174). -/
def subTo (dst : Gpr) (len : Nat) (b : Word) (s : State) : State := aluTo dst (subOut (s.readG dst) b true) len s

/-- `dst - b - (1 - C)` (R175). -/
def sbcTo (dst : Gpr) (len : Nat) (b : Word) (s : State) : State := aluTo dst (subOut (s.readG dst) b s.c) len s

/-- ADD dst, src (R172, mode 00). -/
def execAddReg (dst src : Gpr) (s : State) : Res State := .next (addTo dst 2 (s.readG src) s)

/-- ADD dst, [XYn] (R172, mode 01). -/
def execAddMem (dst : Gpr) (n : Idx) (s : State) : Res State := withMem n s (addTo dst 2)

/-- ADD dst, #imm5 (R172, mode 10). -/
def execAddImm5 (dst : Gpr) (i : Imm5) (s : State) : Res State := .next (addTo dst 2 (imm5Word i) s)

/-- ADD dst, #imm16 (R172, mode 11). -/
def execAddImm16 (dst : Gpr) (v : Word) (s : State) : Res State := .next (addTo dst 4 v s)

/-- ADC dst, src (R173, mode 00). -/
def execAdcReg (dst src : Gpr) (s : State) : Res State := readingC s (.next (adcTo dst 2 (s.readG src) s))

/-- ADC dst, [XYn] (R173, mode 01). -/
def execAdcMem (dst : Gpr) (n : Idx) (s : State) : Res State := readingC s (withMem n s (adcTo dst 2))

/-- ADC dst, #imm5 (R173, mode 10). -/
def execAdcImm5 (dst : Gpr) (i : Imm5) (s : State) : Res State := readingC s (.next (adcTo dst 2 (imm5Word i) s))

/-- ADC dst, #imm16 (R173, mode 11). -/
def execAdcImm16 (dst : Gpr) (v : Word) (s : State) : Res State := readingC s (.next (adcTo dst 4 v s))

/-- SUB dst, src (R174, mode 00). -/
def execSubReg (dst src : Gpr) (s : State) : Res State := .next (subTo dst 2 (s.readG src) s)

/-- SUB dst, [XYn] (R174, mode 01). -/
def execSubMem (dst : Gpr) (n : Idx) (s : State) : Res State := withMem n s (subTo dst 2)

/-- SUB dst, #imm5 (R174, mode 10). -/
def execSubImm5 (dst : Gpr) (i : Imm5) (s : State) : Res State := .next (subTo dst 2 (imm5Word i) s)

/-- SUB dst, #imm16 (R174, mode 11). -/
def execSubImm16 (dst : Gpr) (v : Word) (s : State) : Res State := .next (subTo dst 4 v s)

/-- SBC dst, src (R175, mode 00). -/
def execSbcReg (dst src : Gpr) (s : State) : Res State := readingC s (.next (sbcTo dst 2 (s.readG src) s))

/-- SBC dst, [XYn] (R175, mode 01). -/
def execSbcMem (dst : Gpr) (n : Idx) (s : State) : Res State := readingC s (withMem n s (sbcTo dst 2))

/-- SBC dst, #imm5 (R175, mode 10). -/
def execSbcImm5 (dst : Gpr) (i : Imm5) (s : State) : Res State := readingC s (.next (sbcTo dst 2 (imm5Word i) s))

/-- SBC dst, #imm16 (R175, mode 11). -/
def execSbcImm16 (dst : Gpr) (v : Word) (s : State) : Res State := readingC s (.next (sbcTo dst 4 v s))

/-- INC XYn, #imm5 (R180). -/
def execIncXY (n : Idx) (i : Imm5) (s : State) : Res State :=
  .next (((s.setXY n (s.xy n + imm5Addr i)).trashFlags).advance 2)

/-- DEC XYn, #imm5 (R181). -/
def execDecXY (n : Idx) (i : Imm5) (s : State) : Res State :=
  .next (((s.setXY n (s.xy n - imm5Addr i)).trashFlags).advance 2)

end Sys2Proof.Machine
end

