-- ==== Sys2Proof/Machine/CompareSet.lean ====
section
/-!
DEFINITION. Compare and conditional set (45_compare_scc.md).
-/

namespace Sys2Proof.Machine

/-- `flags <- dst - b`; no register is written (R230). -/
def cmpWith (dst : Gpr) (len : Nat) (b : Word) (s : State) : State :=
  (s.setFlags (subOut (s.readG dst) b true).flags).advance len

/-- `if cond then $FFFF else v` into `dst`; two words, no flag changed (R233). -/
def setOn (c : Cond) (dst : Gpr) (v : Word) (s : State) : Res State :=
  readingFlags (condReads c) s (.next ((s.writeG dst (if condHolds c s.flags then 0xFFFF else v)).advance 4))

/-- CMP dst, src (R230, mode 00). -/
def execCmpReg (dst src : Gpr) (s : State) : Res State := .next (cmpWith dst 2 (s.readG src) s)

/-- CMP dst, [XYn] (R230, mode 01). -/
def execCmpMem (dst : Gpr) (n : Idx) (s : State) : Res State := withMem n s (cmpWith dst 2)

/-- CMP dst, #imm5 (R230, mode 10). -/
def execCmpImm5 (dst : Gpr) (i : Imm5) (s : State) : Res State := .next (cmpWith dst 2 (imm5Word i) s)

/-- CMP dst, #imm16 (R230, mode 11). -/
def execCmpImm16 (dst : Gpr) (v : Word) (s : State) : Res State := .next (cmpWith dst 4 v s)

/-- SEQ dst, #imm16 (R233, R235). -/
def execSeq (dst : Gpr) (v : Word) (s : State) : Res State := setOn .eq dst v s

/-- SNE dst, #imm16 (R233, R235). -/
def execSne (dst : Gpr) (v : Word) (s : State) : Res State := setOn .ne dst v s

/-- SCS dst, #imm16 (R233, R235). -/
def execScs (dst : Gpr) (v : Word) (s : State) : Res State := setOn .cs dst v s

/-- SCC dst, #imm16 (R233, R235). -/
def execScc (dst : Gpr) (v : Word) (s : State) : Res State := setOn .cc dst v s

/-- SLT dst, #imm16 (R233, R235). -/
def execSlt (dst : Gpr) (v : Word) (s : State) : Res State := setOn .lt dst v s

/-- SGT dst, #imm16 (R233, R235). -/
def execSgt (dst : Gpr) (v : Word) (s : State) : Res State := setOn .gt dst v s

/-- SGE dst, #imm16 (R233, R235). -/
def execSge (dst : Gpr) (v : Word) (s : State) : Res State := setOn .ge dst v s

/-- SLE dst, #imm16 (R233, R235). -/
def execSle (dst : Gpr) (v : Word) (s : State) : Res State := setOn .le dst v s

end Sys2Proof.Machine
end

