-- ==== Sys2Proof/Machine/DataMove.lean ====
section
/-!
DEFINITION. Data movement (40_data_movement.md): loads, stores, MOVE, SWAP. No flag changes but by a MOVE to SR (R120).
-/

namespace Sys2Proof.Machine

/-- A word load into a general register: the address was computed before the register is written (R65, R126). -/
def loadWordTo (g : Gpr) (ea : Addr) (len : Nat) (s : State) : Res State :=
  Res.bind (readWord ea s) fun r => .next ((r.2.writeG g r.1).advance len)

/-- A byte load into a general register, zero-extended (R59, R127, R130). -/
def loadByteTo (g : Gpr) (ea : Addr) (len : Nat) (s : State) : Res State :=
  Res.bind (readByte ea s) fun r => .next ((r.2.writeG g (r.1.setWidth 16)).advance len)

/-- A word store (R126). -/
def storeWordAt (ea : Addr) (w : Word) (len : Nat) (s : State) : Res State :=
  Res.bind (writeWord ea w s) fun t => .next (t.advance len)

/-- A byte store of bits 7:0 (R59, R135, R140). -/
def storeByteAt (ea : Addr) (w : Word) (len : Nat) (s : State) : Res State :=
  Res.bind (writeByte ea (loByte w) s) fun t => .next (t.advance len)

/-- `a <- rd16(R); b <- rd16(S); wr16(R, b); wr16(S, a)` (R144). -/
def swapRegs (g h : Gpr) (s : State) : State :=
  ((s.writeG g (s.readG h)).writeG h (s.readG g)).advance 2

/-- LOADI reg, #imm5 (R121). -/
def execLoadiImm5 (dst : Gpr) (i : Imm5) (s : State) : Res State := .next ((s.writeG dst (imm5Word i)).advance 2)

/-- LOADI reg, #imm16 (R122). -/
def execLoadiImm16 (dst : Gpr) (v : Word) (s : State) : Res State := .next ((s.writeG dst v).advance 4)

/-- LOADD Dr, [XYn] (R123, mode 00). -/
def execLoaddInd (r n : Idx) (s : State) : Res State := loadWordTo (.d r) (s.eaInd n) 2 s

/-- LOADD Dr, [XYn+Dm] (R123, mode 01). -/
def execLoaddIdx (r n m : Idx) (s : State) : Res State := loadWordTo (.d r) (s.eaIdx n m) 2 s

/-- LOADD Dr, [label] (R123, mode 10). -/
def execLoaddPc (r : Idx) (off : Word) (s : State) : Res State := loadWordTo (.d r) (s.eaPc 4 off) 4 s

/-- LOADD Dr, [XYn+#imm5] (R123, mode 11). -/
def execLoaddOff (r n : Idx) (i : Imm5) (s : State) : Res State := loadWordTo (.d r) (s.eaOff n i) 2 s

/-- LOADB Dr, [XYn] (R127, mode 00). -/
def execLoadbInd (r n : Idx) (s : State) : Res State := loadByteTo (.d r) (s.eaInd n) 2 s

/-- LOADB Dr, [XYn+Dm] (R127, mode 01). -/
def execLoadbIdx (r n m : Idx) (s : State) : Res State := loadByteTo (.d r) (s.eaIdx n m) 2 s

/-- LOADB Dr, [label] (R127, mode 10). -/
def execLoadbPc (r : Idx) (off : Word) (s : State) : Res State := loadByteTo (.d r) (s.eaPc 4 off) 4 s

/-- LOADB Dr, [XYn+#imm5] (R127, mode 11). -/
def execLoadbOff (r n : Idx) (i : Imm5) (s : State) : Res State := loadByteTo (.d r) (s.eaOff n i) 2 s

/-- LOADX Xr, [XYn] (R124, mode 00). -/
def execLoadxInd (r n : Idx) (s : State) : Res State := loadWordTo (.x r) (s.eaInd n) 2 s

/-- LOADX Xr, [XYn+Dm] (R124, mode 01). -/
def execLoadxIdx (r n m : Idx) (s : State) : Res State := loadWordTo (.x r) (s.eaIdx n m) 2 s

/-- LOADX Xr, [label] (R124, mode 10). -/
def execLoadxPc (r : Idx) (off : Word) (s : State) : Res State := loadWordTo (.x r) (s.eaPc 4 off) 4 s

/-- LOADX Xr, [XYn+#imm5] (R124, mode 11). -/
def execLoadxOff (r n : Idx) (i : Imm5) (s : State) : Res State := loadWordTo (.x r) (s.eaOff n i) 2 s

/-- LOADY Yr, [XYn] (R125, mode 00). -/
def execLoadyInd (r n : Idx) (s : State) : Res State := loadWordTo (.y r) (s.eaInd n) 2 s

/-- LOADY Yr, [XYn+Dm] (R125, mode 01). -/
def execLoadyIdx (r n m : Idx) (s : State) : Res State := loadWordTo (.y r) (s.eaIdx n m) 2 s

/-- LOADY Yr, [label] (R125, mode 10). -/
def execLoadyPc (r : Idx) (off : Word) (s : State) : Res State := loadWordTo (.y r) (s.eaPc 4 off) 4 s

/-- LOADY Yr, [XYn+#imm5] (R125, mode 11). -/
def execLoadyOff (r n : Idx) (i : Imm5) (s : State) : Res State := loadWordTo (.y r) (s.eaOff n i) 2 s

/-- LOADXY XYn, [XYm] (R128): both words are read at the old pair. -/
def execLoadxy (n m : Idx) (s : State) : Res State :=
  Res.bind (read24 (s.xy m) s) fun r => .next ((r.2.setXY n r.1).advance 2)

/-- LOADP reg, Yn, [#imm16] (R129). -/
def execLoadp (dst : Gpr) (n : Idx) (off : Word) (s : State) : Res State := loadWordTo dst (s.eaPaged n off) 4 s

/-- LOADPB reg, Yn, [#imm16] (R130). -/
def execLoadpb (dst : Gpr) (n : Idx) (off : Word) (s : State) : Res State := loadByteTo dst (s.eaPaged n off) 4 s

/-- STORED Dr, [XYn] (R131, mode 00). -/
def execStoredInd (r n : Idx) (s : State) : Res State := storeWordAt (s.eaInd n) (s.readG (.d r)) 2 s

/-- STORED Dr, [XYn+Dm] (R131, mode 01). -/
def execStoredIdx (r n m : Idx) (s : State) : Res State := storeWordAt (s.eaIdx n m) (s.readG (.d r)) 2 s

/-- STORED Dr, [label] (R131, mode 10). -/
def execStoredPc (r : Idx) (off : Word) (s : State) : Res State := storeWordAt (s.eaPc 4 off) (s.readG (.d r)) 4 s

/-- STORED Dr, [XYn+#imm5] (R131, mode 11). -/
def execStoredOff (r n : Idx) (i : Imm5) (s : State) : Res State := storeWordAt (s.eaOff n i) (s.readG (.d r)) 2 s

/-- STOREB Dr, [XYn] (R135, mode 00). -/
def execStorebInd (r n : Idx) (s : State) : Res State := storeByteAt (s.eaInd n) (s.readG (.d r)) 2 s

/-- STOREB Dr, [XYn+Dm] (R135, mode 01). -/
def execStorebIdx (r n m : Idx) (s : State) : Res State := storeByteAt (s.eaIdx n m) (s.readG (.d r)) 2 s

/-- STOREB Dr, [label] (R135, mode 10). -/
def execStorebPc (r : Idx) (off : Word) (s : State) : Res State := storeByteAt (s.eaPc 4 off) (s.readG (.d r)) 4 s

/-- STOREB Dr, [XYn+#imm5] (R135, mode 11). -/
def execStorebOff (r n : Idx) (i : Imm5) (s : State) : Res State := storeByteAt (s.eaOff n i) (s.readG (.d r)) 2 s

/-- STOREX Xr, [XYn] (R132, mode 00). -/
def execStorexInd (r n : Idx) (s : State) : Res State := storeWordAt (s.eaInd n) (s.readG (.x r)) 2 s

/-- STOREX Xr, [XYn+Dm] (R132, mode 01). -/
def execStorexIdx (r n m : Idx) (s : State) : Res State := storeWordAt (s.eaIdx n m) (s.readG (.x r)) 2 s

/-- STOREX Xr, [label] (R132, mode 10). -/
def execStorexPc (r : Idx) (off : Word) (s : State) : Res State := storeWordAt (s.eaPc 4 off) (s.readG (.x r)) 4 s

/-- STOREX Xr, [XYn+#imm5] (R132, mode 11). -/
def execStorexOff (r n : Idx) (i : Imm5) (s : State) : Res State := storeWordAt (s.eaOff n i) (s.readG (.x r)) 2 s

/-- STOREY Yr, [XYn] (R133, mode 00). -/
def execStoreyInd (r n : Idx) (s : State) : Res State := storeWordAt (s.eaInd n) (s.readG (.y r)) 2 s

/-- STOREY Yr, [XYn+Dm] (R133, mode 01). -/
def execStoreyIdx (r n m : Idx) (s : State) : Res State := storeWordAt (s.eaIdx n m) (s.readG (.y r)) 2 s

/-- STOREY Yr, [label] (R133, mode 10). -/
def execStoreyPc (r : Idx) (off : Word) (s : State) : Res State := storeWordAt (s.eaPc 4 off) (s.readG (.y r)) 4 s

/-- STOREY Yr, [XYn+#imm5] (R133, mode 11). -/
def execStoreyOff (r n : Idx) (i : Imm5) (s : State) : Res State := storeWordAt (s.eaOff n i) (s.readG (.y r)) 2 s

/-- STOREI #imm5, [XYn] (R136). -/
def execStoreiImm5 (i : Imm5) (n : Idx) (s : State) : Res State := storeWordAt (s.xy n) (imm5Word i) 2 s

/-- STOREI #imm16, [XYn] (R137). -/
def execStoreiImm16 (v : Word) (n : Idx) (s : State) : Res State := storeWordAt (s.xy n) v 4 s

/-- STOREXY XYn, [XYm] (R138). -/
def execStorexy (n m : Idx) (s : State) : Res State :=
  Res.bind (write24 (s.xy m) (s.xy n) s) fun t => .next (t.advance 2)

/-- STOREP reg, Yn, [#imm16] (R139). -/
def execStorep (src : Gpr) (n : Idx) (off : Word) (s : State) : Res State :=
  storeWordAt (s.eaPaged n off) (s.readG src) 4 s

/-- STOREPB reg, Yn, [#imm16] (R140). -/
def execStorepb (src : Gpr) (n : Idx) (off : Word) (s : State) : Res State :=
  storeByteAt (s.eaPaged n off) (s.readG src) 4 s

/-- MOVE dst, Dn (R141). -/
def execMoveD (dst : MoveDst) (n : Idx) (s : State) : Res State := .next (s.finishMove 2 dst (s.readG (.d n)))

/-- MOVE dst, src (R142). -/
def execMoveS (dst : MoveDst) (src : MoveSrc) (s : State) : Res State :=
  readingFlags (moveSrcReads src) s (.next (s.finishMove 2 dst (s.readMoveSrc 2 src)))

/-- SWAP Dn, Xn/Yn (R144). -/
def execSwapD (n : Idx) (r : XYReg) (s : State) : Res State := .next (swapRegs (.d n) (xyGpr r) s)

/-- SWAP Xn/Yn, Xn/Yn (R145). -/
def execSwapXY (a b : XYReg) (s : State) : Res State := .next (swapRegs (xyGpr a) (xyGpr b) s)

end Sys2Proof.Machine
end

