-- ==== Sys2Proof/Machine/Lea.lean ====
section
/-!
DEFINITION. Load effective address (41_lea.md). The source pair is read before the destination is written (R160); C, Z, N
and V are draws after it (R165, decision D35).
-/

namespace Sys2Proof.Machine

/-- The end of every LEA, `len` bytes long: the pair is written, the flags are drawn (R160, R165). -/
def leaTo (n : Idx) (a : Addr) (len : Nat) (s : State) : State := ((s.setXY n a).trashFlags).advance len

/-- LEA XYn, XYm (R161). -/
def execLeaCopy (n m : Idx) (s : State) : Res State := .next (leaTo n (s.xy m) 2 s)

/-- LEA XYn, XYm+Do (R162). -/
def execLeaIdx (n m o : Idx) (s : State) : Res State := .next (leaTo n (s.eaIdx m o) 2 s)

/-- LEA XYn, label (R163). -/
def execLeaPc (n : Idx) (off : Word) (s : State) : Res State := .next (leaTo n (s.eaPc 4 off) 4 s)

/-- LEA XYn, XYm+#imm5 (R164). -/
def execLeaOff (n m : Idx) (i : Imm5) (s : State) : Res State := .next (leaTo n (s.eaOff m i) 2 s)

end Sys2Proof.Machine
end

