-- ==== Sys2Proof/Machine/Logic.lean ====
section
/-!
DEFINITION. Logical instructions (43_logical.md): AND, OR, XOR, NOT.
-/

namespace Sys2Proof.Machine

/-- The end of a logical instruction of `len` bytes: destination and flags are written (R190). -/
def logicTo (dst : Gpr) (res : Word) (len : Nat) (s : State) : State := ((s.writeG dst res).setLogicFlags res).advance len

/-- `dst AND b` (R191). -/
def andTo (dst : Gpr) (len : Nat) (b : Word) (s : State) : State := logicTo dst (s.readG dst &&& b) len s

/-- `dst OR b` (R192). -/
def orTo (dst : Gpr) (len : Nat) (b : Word) (s : State) : State := logicTo dst (s.readG dst ||| b) len s

/-- `dst XOR b` (R193). -/
def xorTo (dst : Gpr) (len : Nat) (b : Word) (s : State) : State := logicTo dst (s.readG dst ^^^ b) len s

/-- `NOT b` into `dst`; the old value of `dst` is not used (R194). -/
def notTo (dst : Gpr) (len : Nat) (b : Word) (s : State) : State := logicTo dst (~~~b) len s

/-- AND dst, src (R191, mode 00). -/
def execAndReg (dst src : Gpr) (s : State) : Res State := .next (andTo dst 2 (s.readG src) s)

/-- AND dst, [XYn] (R191, mode 01). -/
def execAndMem (dst : Gpr) (n : Idx) (s : State) : Res State := withMem n s (andTo dst 2)

/-- AND dst, #imm5 (R191, mode 10). -/
def execAndImm5 (dst : Gpr) (i : Imm5) (s : State) : Res State := .next (andTo dst 2 (imm5Word i) s)

/-- AND dst, #imm16 (R191, mode 11). -/
def execAndImm16 (dst : Gpr) (v : Word) (s : State) : Res State := .next (andTo dst 4 v s)

/-- OR dst, src (R192, mode 00). -/
def execOrReg (dst src : Gpr) (s : State) : Res State := .next (orTo dst 2 (s.readG src) s)

/-- OR dst, [XYn] (R192, mode 01). -/
def execOrMem (dst : Gpr) (n : Idx) (s : State) : Res State := withMem n s (orTo dst 2)

/-- OR dst, #imm5 (R192, mode 10). -/
def execOrImm5 (dst : Gpr) (i : Imm5) (s : State) : Res State := .next (orTo dst 2 (imm5Word i) s)

/-- OR dst, #imm16 (R192, mode 11). -/
def execOrImm16 (dst : Gpr) (v : Word) (s : State) : Res State := .next (orTo dst 4 v s)

/-- XOR dst, src (R193, mode 00). -/
def execXorReg (dst src : Gpr) (s : State) : Res State := .next (xorTo dst 2 (s.readG src) s)

/-- XOR dst, [XYn] (R193, mode 01). -/
def execXorMem (dst : Gpr) (n : Idx) (s : State) : Res State := withMem n s (xorTo dst 2)

/-- XOR dst, #imm5 (R193, mode 10). -/
def execXorImm5 (dst : Gpr) (i : Imm5) (s : State) : Res State := .next (xorTo dst 2 (imm5Word i) s)

/-- XOR dst, #imm16 (R193, mode 11). -/
def execXorImm16 (dst : Gpr) (v : Word) (s : State) : Res State := .next (xorTo dst 4 v s)

/-- NOT dst, src (R194). -/
def execNotReg (dst src : Gpr) (s : State) : Res State := .next (notTo dst 2 (s.readG src) s)

/-- NOT dst, [XYn] (R195). -/
def execNotMem (dst : Gpr) (n : Idx) (s : State) : Res State := withMem n s (notTo dst 2)

/-- NOT dst, in place (R196). -/
def execNotSelf (dst : Gpr) (s : State) : Res State := .next (notTo dst 2 (s.readG dst) s)

end Sys2Proof.Machine
end

