-- ==== Sys2Proof/Machine/Lookup.lean ====
section
/-!
DEFINITION. Shift, rotate and table lookup (44_lookup.md). A named page is a function of the D register and reads no memory
(R201); no flag changes (R200).
-/

namespace Sys2Proof.Machine

/-- SHL4: `{v[11:0], 0000}` (R204). -/
def shl4Fun (v : Word) : Word := v.extractLsb' 0 12 ++ (0 : BitVec 4)

/-- SHR4: `{0000, v[15:4]}` (R205). -/
def shr4Fun (v : Word) : Word := (0 : BitVec 4) ++ v.extractLsb' 4 12

/-- ASR4: `{v[15], v[15], v[15], v[15], v[15:4]}` (R206). -/
def asr4Fun (v : Word) : Word := (v.extractLsb' 4 12).signExtend 16

/-- ASR8: `sext_16(v[15:8])` (R207). -/
def asr8Fun (v : Word) : Word := (hiByte v).signExtend 16

/-- MULB: `u(v[15:8]) * u(v[7:0])` (R208). -/
def mulbFun (v : Word) : Word := BitVec.ofNat 16 ((hiByte v).toNat * (loByte v).toNat)

/-- RECIP: `floor(65536 / u(v))` for `u(v) >= 2`; of 0 and of 1 the OPEN parameters (R209). -/
def recipFun (v : Word) : Word :=
  if v.toNat = 0 then Config.recip0
  else if v.toNat = 1 then Config.recip1
  else BitVec.ofNat 16 (65536 / v.toNat)

/-- SHL: `{v[14:0], 0}` (R210). -/
def shlFun (v : Word) : Word := v.extractLsb' 0 15 ++ (0 : BitVec 1)

/-- SHR: `{0, v[15:1]}` (R211). -/
def shrFun (v : Word) : Word := (0 : BitVec 1) ++ v.extractLsb' 1 15

/-- ASR: `{v[15], v[15:1]}` (R212). -/
def asrFun (v : Word) : Word := (v.extractLsb' 1 15).signExtend 16

/-- ROL: `{v[14:0], C}` (R213). -/
def rolFun (c : Bool) (v : Word) : Word := v.extractLsb' 0 15 ++ BitVec.ofBool c

/-- ROR: `{C, v[15:1]}` (R214). -/
def rorFun (c : Bool) (v : Word) : Word := BitVec.ofBool c ++ v.extractLsb' 1 15

/-- SWAPB: `{v[7:0], v[15:8]}` (R215). -/
def swapbFun (v : Word) : Word := loByte v ++ hiByte v

/-- HIGH: `zext_16(v[15:8])` (R216). -/
def highFun (v : Word) : Word := (hiByte v).setWidth 16

/-- LOW: `zext_16(v[7:0])` (R217). -/
def lowFun (v : Word) : Word := (loByte v).setWidth 16

/-- `D[n] <- w`, one word long, no flag changed (R200). -/
def lookupTo (n : Idx) (w : Word) (s : State) : State := (s.writeG (.d n) w).advance 2

/-- The address of a custom table's entry: by default `page * 65536 + 2 * u(D[n])`, page being twice `t` (R202;
`LOOKUP_ADDR`). -/
def tableAddr (l : LookupAddr) (t : BitVec 7) (w : Word) : Addr :=
  l.base + BitVec.ofNat 24 (2 * t.toNat * l.pageStride + w.toNat * l.entryStride)

/-- SHL4 Dn, page $04 (R204). -/
def execShl4 (n : Idx) (s : State) : Res State := .next (lookupTo n (shl4Fun (s.readG (.d n))) s)

/-- SHR4 Dn, page $06 (R205). -/
def execShr4 (n : Idx) (s : State) : Res State := .next (lookupTo n (shr4Fun (s.readG (.d n))) s)

/-- ASR4 Dn, page $08 (R206). -/
def execAsr4 (n : Idx) (s : State) : Res State := .next (lookupTo n (asr4Fun (s.readG (.d n))) s)

/-- ASR8 Dn, page $0A (R207). -/
def execAsr8 (n : Idx) (s : State) : Res State := .next (lookupTo n (asr8Fun (s.readG (.d n))) s)

/-- MULB Dn, page $0C (R208). -/
def execMulb (n : Idx) (s : State) : Res State := .next (lookupTo n (mulbFun (s.readG (.d n))) s)

/-- RECIP Dn, page $0E (R209). -/
def execRecip (n : Idx) (s : State) : Res State := .next (lookupTo n (recipFun (s.readG (.d n))) s)

/-- SHL Dn, page $10 (R210). -/
def execShl (n : Idx) (s : State) : Res State := .next (lookupTo n (shlFun (s.readG (.d n))) s)

/-- SHR Dn, page $12 (R211). -/
def execShr (n : Idx) (s : State) : Res State := .next (lookupTo n (shrFun (s.readG (.d n))) s)

/-- ASR Dn, page $14 (R212). -/
def execAsr (n : Idx) (s : State) : Res State := .next (lookupTo n (asrFun (s.readG (.d n))) s)

/-- ROL Dn, page $16 (R213). -/
def execRol (n : Idx) (s : State) : Res State := readingC s (.next (lookupTo n (rolFun s.c (s.readG (.d n))) s))

/-- ROR Dn, page $18 (R214). -/
def execRor (n : Idx) (s : State) : Res State := readingC s (.next (lookupTo n (rorFun s.c (s.readG (.d n))) s))

/-- SWAPB Dn, page $1A (R215). -/
def execSwapb (n : Idx) (s : State) : Res State := .next (lookupTo n (swapbFun (s.readG (.d n))) s)

/-- HIGH Dn, page $1C (R216). -/
def execHigh (n : Idx) (s : State) : Res State := .next (lookupTo n (highFun (s.readG (.d n))) s)

/-- LOW Dn, page $1E (R217). -/
def execLow (n : Idx) (s : State) : Res State := .next (lookupTo n (lowFun (s.readG (.d n))) s)

/-- LOOKUP Dn, #page with a page that R201 does not name; `t` is the table number `page >> 1` (R90, R202). -/
def execLookup (t : BitVec 7) (n : Idx) (s : State) : Res State :=
  Res.bind (readWord (tableAddr s.cfg.lookupAddr t (s.readG (.d n))) s) fun r => .next (lookupTo n r.1 r.2)

end Sys2Proof.Machine
end

