-- ==== Sys2Proof/Machine/Stack.lean ====
section
/-!
DEFINITION. Stack instructions (47_stack.md). No flag changes but by POP SR (R272).
-/

namespace Sys2Proof.Machine

/-- PUSH reg, XYp (R274): a half of the stack pair is refused (R283). -/
def execPushReg (r : StackReg) (p : Idx) (s : State) : Res State :=
  if halfOf r p then .refused .selfStack
  else readingFlags (stackRegReads r) s (Res.bind (push16 p (s.readStackReg r) s) fun t => .next (t.advance 2))

/-- PUSH D, XYp: the D group (R273): D0 first, D3 last. -/
def execPushD (p : Idx) (s : State) : Res State :=
  Res.bind (push16 p (s.d.get .i0) s) fun t0 =>
    Res.bind (push16 p (s.d.get .i1) t0) fun t1 =>
      Res.bind (push16 p (s.d.get .i2) t1) fun t2 =>
        Res.bind (push16 p (s.d.get .i3) t2) fun t3 => .next (t3.advance 2)

/-- PUSH XYn, XYp (R275): X first, then Y; the stack pair itself is refused (R283). -/
def execPushXY (n p : Idx) (s : State) : Res State :=
  if n = p then .refused .selfStack
  else Res.bind (push16 p (s.x.get n) s) fun t =>
    Res.bind (push16 p ((s.y.get n).setWidth 16) t) fun u => .next (u.advance 2)

/-- PUSH #imm5, XYp (R276). -/
def execPushImm5 (i : Imm5) (p : Idx) (s : State) : Res State :=
  Res.bind (push16 p (imm5Word i) s) fun t => .next (t.advance 2)

/-- POP reg, XYp (R278): a half of the stack pair is refused (R283). -/
def execPopReg (r : StackReg) (p : Idx) (s : State) : Res State :=
  if halfOf r p then .refused .selfStack
  else Res.bind (pop16 p s) fun w => .next ((w.2.writeStackReg r w.1).advance 2)

/-- POP D, XYp: the D group (R277): D3 first, D0 last. -/
def execPopD (p : Idx) (s : State) : Res State :=
  Res.bind (pop16 p s) fun w3 =>
    Res.bind (pop16 p w3.2) fun w2 =>
      Res.bind (pop16 p w2.2) fun w1 =>
        Res.bind (pop16 p w1.2) fun w0 => .next ({ w0.2 with d := ⟨w0.1, w1.1, w2.1, w3.1⟩ }.advance 2)

/-- POP XYn, XYp (R279): Y first, then X; the stack pair itself is refused (R283). -/
def execPopXY (n p : Idx) (s : State) : Res State :=
  if n = p then .refused .selfStack
  else Res.bind (pop16 p s) fun hi =>
    Res.bind (pop16 p hi.2) fun lo => .next ((lo.2.setXY n (mkAddr (loByte hi.1) lo.1)).advance 2)

/-- PUSH #imm16, XYp (R280). -/
def execPushi (v : Word) (p : Idx) (s : State) : Res State := Res.bind (push16 p v s) fun t => .next (t.advance 4)

end Sys2Proof.Machine
end

