-- ==== Sys2Proof/Machine/System.lean ====
section
/-!
DEFINITION. Control and interrupt control (48_control_interrupt.md).
-/

namespace Sys2Proof.Machine

/-- NOP (R292). -/
def execNop (s : State) : Res State := .next (s.advance 2)

/-- HALT #n (R291). -/
def execHalt (n : Byte) (s : State) : Res State := .next ({ s with halted := true, haltCode := n }.advance 2)

/-- DINT (R293). -/
def execDint (s : State) : Res State := .next ({ s with ie := false }.advance 2)

/-- EINT (R294). -/
def execEint (s : State) : Res State := .next ({ s with ie := true }.advance 2)

/-- RTI (R296). -/
def execRti (s : State) : Res State := interruptReturn s

/-- INT (R297): the entry sequence with PC as the return address, whatever IE is; where `INT_ENTRY` says so, refused. -/
def execInt (s : State) : Res State :=
  if s.cfg.intEntry.inStream then interruptEntry (s.pcBase 2) s else .refused .intInStream

end Sys2Proof.Machine
end

