-- ==== Sys2Proof/Machine/Transfer.lean ====
section
/-!
DEFINITION. Branch, jump, call and return (46_control_transfer.md). No flag changes (R240).
-/

namespace Sys2Proof.Machine

/-- A short conditional branch: to PC `+ zext_24(I)` if the condition is true (R241). -/
def branchShort (c : Cond) (i : Imm5) (s : State) : Res State :=
  readingFlags (condReads c) s
    (.next (if condHolds c s.flags then s.jump (s.pcBase 2 + imm5Addr i) else s.advance 2))

/-- A long conditional branch: to PC `+ sext_24(ext1)` if the condition is true (R242). -/
def branchLong (c : Cond) (off : Word) (s : State) : Res State :=
  readingFlags (condReads c) s (.next (if condHolds c s.flags then s.jump (s.eaPc 4 off) else s.advance 4))

/-- A call of `len` bytes: the return address, which is PC, is pushed, then `pc` is written (R251). -/
def callTo (target : Addr) (len : Nat) (s : State) : Res State :=
  Res.bind (pushPc (s.pcBase len) s) fun t => .next (t.jump target)

/-- BEQ.S target (R241, R245). -/
def execBeqS (i : Imm5) (s : State) : Res State := branchShort .eq i s

/-- BNE.S target (R241, R245). -/
def execBneS (i : Imm5) (s : State) : Res State := branchShort .ne i s

/-- BCS.S target (R241, R245). -/
def execBcsS (i : Imm5) (s : State) : Res State := branchShort .cs i s

/-- BCC.S target (R241, R245). -/
def execBccS (i : Imm5) (s : State) : Res State := branchShort .cc i s

/-- BLT.S target (R241, R245). -/
def execBltS (i : Imm5) (s : State) : Res State := branchShort .lt i s

/-- BGT.S target (R241, R245). -/
def execBgtS (i : Imm5) (s : State) : Res State := branchShort .gt i s

/-- BGE.S target (R241, R245). -/
def execBgeS (i : Imm5) (s : State) : Res State := branchShort .ge i s

/-- BLE.S target (R241, R245). -/
def execBleS (i : Imm5) (s : State) : Res State := branchShort .le i s

/-- BEQ.L target (R242, R245). -/
def execBeqL (off : Word) (s : State) : Res State := branchLong .eq off s

/-- BNE.L target (R242, R245). -/
def execBneL (off : Word) (s : State) : Res State := branchLong .ne off s

/-- BCS.L target (R242, R245). -/
def execBcsL (off : Word) (s : State) : Res State := branchLong .cs off s

/-- BCC.L target (R242, R245). -/
def execBccL (off : Word) (s : State) : Res State := branchLong .cc off s

/-- BLT.L target (R242, R245). -/
def execBltL (off : Word) (s : State) : Res State := branchLong .lt off s

/-- BGT.L target (R242, R245). -/
def execBgtL (off : Word) (s : State) : Res State := branchLong .gt off s

/-- BGE.L target (R242, R245). -/
def execBgeL (off : Word) (s : State) : Res State := branchLong .ge off s

/-- BLE.L target (R242, R245). -/
def execBleL (off : Word) (s : State) : Res State := branchLong .le off s

/-- BRA.S target (R243). -/
def execBraS (i : Imm5) (s : State) : Res State := .next (s.jump (s.pcBase 2 + imm5Addr i))

/-- BRA.L target (R244). -/
def execBraL (off : Word) (s : State) : Res State := .next (s.jump (s.eaPc 4 off))

/-- JMP24 addr (R247). -/
def execJmp24 (addr : Addr) (s : State) : Res State := .next (s.jump addr)

/-- JMP16 addr (R248). -/
def execJmp16 (addr : Word) (s : State) : Res State := .next (s.jump (s.sameBank 4 addr))

/-- JMPT XYn, Dm (R249). -/
def execJmpt (n m : Idx) (s : State) : Res State :=
  Res.bind (readWord (s.eaIdx n m) s) fun r => .next (r.2.jump (s.sameBank 2 r.1))

/-- JMPXY XYn (R250). -/
def execJmpxy (n : Idx) (s : State) : Res State := .next (s.jump (s.xy n))

/-- CALL24 addr (R252). -/
def execCall24 (addr : Addr) (s : State) : Res State := callTo addr 6 s

/-- CALL16 addr (R253). -/
def execCall16 (addr : Word) (s : State) : Res State := callTo (s.sameBank 4 addr) 4 s

/-- CALLR addr (R254). -/
def execCallr (off : Word) (s : State) : Res State := callTo (s.eaPc 4 off) 4 s

/-- RET #imm5 (R255). -/
def execRet (i : Imm5) (s : State) : Res State :=
  Res.bind (popPc s) fun r => .next ((r.2.setXY .i3 (r.2.xy .i3 + imm5Addr i)).jump r.1)

end Sys2Proof.Machine
end

