-- ==== Sys2Proof/Machine/Dispatch.lean ====
section
/-!
DEFINITION. The dispatch: one arm for each constructor of Instr, each a call of that instruction's own meaning.
-/

namespace Sys2Proof.Machine

def exec (i : Instr) (s : State) : Host.Outcome State Fault Refusal :=
  match i with
  | .nop => Sys2Proof.Machine.execNop s
  | .halt n => Sys2Proof.Machine.execHalt n s
  | .shl4 n => Sys2Proof.Machine.execShl4 n s
  | .shr4 n => Sys2Proof.Machine.execShr4 n s
  | .asr4 n => Sys2Proof.Machine.execAsr4 n s
  | .asr8 n => Sys2Proof.Machine.execAsr8 n s
  | .mulb n => Sys2Proof.Machine.execMulb n s
  | .recip n => Sys2Proof.Machine.execRecip n s
  | .shl n => Sys2Proof.Machine.execShl n s
  | .shr n => Sys2Proof.Machine.execShr n s
  | .asr n => Sys2Proof.Machine.execAsr n s
  | .rol n => Sys2Proof.Machine.execRol n s
  | .ror n => Sys2Proof.Machine.execRor n s
  | .swapb n => Sys2Proof.Machine.execSwapb n s
  | .high n => Sys2Proof.Machine.execHigh n s
  | .low n => Sys2Proof.Machine.execLow n s
  | .lookup t n => Sys2Proof.Machine.execLookup t n s
  | .incXY n imm => Sys2Proof.Machine.execIncXY n imm s
  | .decXY n imm => Sys2Proof.Machine.execDecXY n imm s
  | .leaCopy n m => Sys2Proof.Machine.execLeaCopy n m s
  | .leaIdx n m o => Sys2Proof.Machine.execLeaIdx n m o s
  | .leaPc n off => Sys2Proof.Machine.execLeaPc n off s
  | .leaOff n m imm => Sys2Proof.Machine.execLeaOff n m imm s
  | .seq dst v => Sys2Proof.Machine.execSeq dst v s
  | .sne dst v => Sys2Proof.Machine.execSne dst v s
  | .scs dst v => Sys2Proof.Machine.execScs dst v s
  | .scc dst v => Sys2Proof.Machine.execScc dst v s
  | .slt dst v => Sys2Proof.Machine.execSlt dst v s
  | .sgt dst v => Sys2Proof.Machine.execSgt dst v s
  | .sge dst v => Sys2Proof.Machine.execSge dst v s
  | .sle dst v => Sys2Proof.Machine.execSle dst v s
  | .moveD dst n => Sys2Proof.Machine.execMoveD dst n s
  | .moveS dst src => Sys2Proof.Machine.execMoveS dst src s
  | .swapD n r => Sys2Proof.Machine.execSwapD n r s
  | .swapXY a b => Sys2Proof.Machine.execSwapXY a b s
  | .pushReg r p => Sys2Proof.Machine.execPushReg r p s
  | .pushD p => Sys2Proof.Machine.execPushD p s
  | .pushXY n p => Sys2Proof.Machine.execPushXY n p s
  | .pushImm5 imm p => Sys2Proof.Machine.execPushImm5 imm p s
  | .popReg r p => Sys2Proof.Machine.execPopReg r p s
  | .popD p => Sys2Proof.Machine.execPopD p s
  | .popXY n p => Sys2Proof.Machine.execPopXY n p s
  | .pushi v p => Sys2Proof.Machine.execPushi v p s
  | .addReg dst src => Sys2Proof.Machine.execAddReg dst src s
  | .addMem dst n => Sys2Proof.Machine.execAddMem dst n s
  | .addImm5 dst imm => Sys2Proof.Machine.execAddImm5 dst imm s
  | .addImm16 dst v => Sys2Proof.Machine.execAddImm16 dst v s
  | .adcReg dst src => Sys2Proof.Machine.execAdcReg dst src s
  | .adcMem dst n => Sys2Proof.Machine.execAdcMem dst n s
  | .adcImm5 dst imm => Sys2Proof.Machine.execAdcImm5 dst imm s
  | .adcImm16 dst v => Sys2Proof.Machine.execAdcImm16 dst v s
  | .subReg dst src => Sys2Proof.Machine.execSubReg dst src s
  | .subMem dst n => Sys2Proof.Machine.execSubMem dst n s
  | .subImm5 dst imm => Sys2Proof.Machine.execSubImm5 dst imm s
  | .subImm16 dst v => Sys2Proof.Machine.execSubImm16 dst v s
  | .sbcReg dst src => Sys2Proof.Machine.execSbcReg dst src s
  | .sbcMem dst n => Sys2Proof.Machine.execSbcMem dst n s
  | .sbcImm5 dst imm => Sys2Proof.Machine.execSbcImm5 dst imm s
  | .sbcImm16 dst v => Sys2Proof.Machine.execSbcImm16 dst v s
  | .andReg dst src => Sys2Proof.Machine.execAndReg dst src s
  | .andMem dst n => Sys2Proof.Machine.execAndMem dst n s
  | .andImm5 dst imm => Sys2Proof.Machine.execAndImm5 dst imm s
  | .andImm16 dst v => Sys2Proof.Machine.execAndImm16 dst v s
  | .orReg dst src => Sys2Proof.Machine.execOrReg dst src s
  | .orMem dst n => Sys2Proof.Machine.execOrMem dst n s
  | .orImm5 dst imm => Sys2Proof.Machine.execOrImm5 dst imm s
  | .orImm16 dst v => Sys2Proof.Machine.execOrImm16 dst v s
  | .xorReg dst src => Sys2Proof.Machine.execXorReg dst src s
  | .xorMem dst n => Sys2Proof.Machine.execXorMem dst n s
  | .xorImm5 dst imm => Sys2Proof.Machine.execXorImm5 dst imm s
  | .xorImm16 dst v => Sys2Proof.Machine.execXorImm16 dst v s
  | .notReg dst src => Sys2Proof.Machine.execNotReg dst src s
  | .notMem dst n => Sys2Proof.Machine.execNotMem dst n s
  | .notSelf dst => Sys2Proof.Machine.execNotSelf dst s
  | .cmpReg dst src => Sys2Proof.Machine.execCmpReg dst src s
  | .cmpMem dst n => Sys2Proof.Machine.execCmpMem dst n s
  | .cmpImm5 dst imm => Sys2Proof.Machine.execCmpImm5 dst imm s
  | .cmpImm16 dst v => Sys2Proof.Machine.execCmpImm16 dst v s
  | .beqS imm => Sys2Proof.Machine.execBeqS imm s
  | .bneS imm => Sys2Proof.Machine.execBneS imm s
  | .bcsS imm => Sys2Proof.Machine.execBcsS imm s
  | .bccS imm => Sys2Proof.Machine.execBccS imm s
  | .bltS imm => Sys2Proof.Machine.execBltS imm s
  | .bgtS imm => Sys2Proof.Machine.execBgtS imm s
  | .bgeS imm => Sys2Proof.Machine.execBgeS imm s
  | .bleS imm => Sys2Proof.Machine.execBleS imm s
  | .beqL off => Sys2Proof.Machine.execBeqL off s
  | .bneL off => Sys2Proof.Machine.execBneL off s
  | .bcsL off => Sys2Proof.Machine.execBcsL off s
  | .bccL off => Sys2Proof.Machine.execBccL off s
  | .bltL off => Sys2Proof.Machine.execBltL off s
  | .bgtL off => Sys2Proof.Machine.execBgtL off s
  | .bgeL off => Sys2Proof.Machine.execBgeL off s
  | .bleL off => Sys2Proof.Machine.execBleL off s
  | .braS imm => Sys2Proof.Machine.execBraS imm s
  | .braL off => Sys2Proof.Machine.execBraL off s
  | .jmp24 addr => Sys2Proof.Machine.execJmp24 addr s
  | .jmp16 addr => Sys2Proof.Machine.execJmp16 addr s
  | .jmpt n m => Sys2Proof.Machine.execJmpt n m s
  | .jmpxy n => Sys2Proof.Machine.execJmpxy n s
  | .call24 addr => Sys2Proof.Machine.execCall24 addr s
  | .call16 addr => Sys2Proof.Machine.execCall16 addr s
  | .callr off => Sys2Proof.Machine.execCallr off s
  | .ret imm => Sys2Proof.Machine.execRet imm s
  | .loaddInd r n => Sys2Proof.Machine.execLoaddInd r n s
  | .loaddIdx r n m => Sys2Proof.Machine.execLoaddIdx r n m s
  | .loaddPc r off => Sys2Proof.Machine.execLoaddPc r off s
  | .loaddOff r n imm => Sys2Proof.Machine.execLoaddOff r n imm s
  | .loadbInd r n => Sys2Proof.Machine.execLoadbInd r n s
  | .loadbIdx r n m => Sys2Proof.Machine.execLoadbIdx r n m s
  | .loadbPc r off => Sys2Proof.Machine.execLoadbPc r off s
  | .loadbOff r n imm => Sys2Proof.Machine.execLoadbOff r n imm s
  | .loadxInd r n => Sys2Proof.Machine.execLoadxInd r n s
  | .loadxIdx r n m => Sys2Proof.Machine.execLoadxIdx r n m s
  | .loadxPc r off => Sys2Proof.Machine.execLoadxPc r off s
  | .loadxOff r n imm => Sys2Proof.Machine.execLoadxOff r n imm s
  | .loadyInd r n => Sys2Proof.Machine.execLoadyInd r n s
  | .loadyIdx r n m => Sys2Proof.Machine.execLoadyIdx r n m s
  | .loadyPc r off => Sys2Proof.Machine.execLoadyPc r off s
  | .loadyOff r n imm => Sys2Proof.Machine.execLoadyOff r n imm s
  | .loadiImm5 dst imm => Sys2Proof.Machine.execLoadiImm5 dst imm s
  | .loadiImm16 dst v => Sys2Proof.Machine.execLoadiImm16 dst v s
  | .loadxy n m => Sys2Proof.Machine.execLoadxy n m s
  | .loadp dst n off => Sys2Proof.Machine.execLoadp dst n off s
  | .loadpb dst n off => Sys2Proof.Machine.execLoadpb dst n off s
  | .storedInd r n => Sys2Proof.Machine.execStoredInd r n s
  | .storedIdx r n m => Sys2Proof.Machine.execStoredIdx r n m s
  | .storedPc r off => Sys2Proof.Machine.execStoredPc r off s
  | .storedOff r n imm => Sys2Proof.Machine.execStoredOff r n imm s
  | .storebInd r n => Sys2Proof.Machine.execStorebInd r n s
  | .storebIdx r n m => Sys2Proof.Machine.execStorebIdx r n m s
  | .storebPc r off => Sys2Proof.Machine.execStorebPc r off s
  | .storebOff r n imm => Sys2Proof.Machine.execStorebOff r n imm s
  | .storexInd r n => Sys2Proof.Machine.execStorexInd r n s
  | .storexIdx r n m => Sys2Proof.Machine.execStorexIdx r n m s
  | .storexPc r off => Sys2Proof.Machine.execStorexPc r off s
  | .storexOff r n imm => Sys2Proof.Machine.execStorexOff r n imm s
  | .storeyInd r n => Sys2Proof.Machine.execStoreyInd r n s
  | .storeyIdx r n m => Sys2Proof.Machine.execStoreyIdx r n m s
  | .storeyPc r off => Sys2Proof.Machine.execStoreyPc r off s
  | .storeyOff r n imm => Sys2Proof.Machine.execStoreyOff r n imm s
  | .storeiImm5 imm n => Sys2Proof.Machine.execStoreiImm5 imm n s
  | .storeiImm16 v n => Sys2Proof.Machine.execStoreiImm16 v n s
  | .storexy n m => Sys2Proof.Machine.execStorexy n m s
  | .storep src n off => Sys2Proof.Machine.execStorep src n off s
  | .storepb src n off => Sys2Proof.Machine.execStorepb src n off s
  | .dint => Sys2Proof.Machine.execDint s
  | .eint => Sys2Proof.Machine.execEint s
  | .rti => Sys2Proof.Machine.execRti s
  | .int => Sys2Proof.Machine.execInt s

end Sys2Proof.Machine
end

