-- ==== Sys2Proof/Machine/Boundary.lean ====
section
/-!
DEFINITION. What happens at an instruction boundary: an interrupt entry or one instruction (60_exceptions.md R313), or
nothing in the halted state (10_state.md R38).
-/

namespace Sys2Proof.Machine

/-- The environment's input moves on to the next boundary (R39, log 9). -/
def State.tick (s : State) : State := { s with irq := s.irq.tail }

/-- What an outcome becomes when the step is over: the input moves on. -/
def endStep (r : Res State) : Res State := Res.bind r fun s => .next s.tick

/-- The instruction at `pc`: fetched (R57), decoded, and run; a reserved encoding is refused (R104). -/
def runInstr (s : State) : Res State :=
  Res.bind (fetch s) fun f =>
    match decode (canonBytes s.cfg f.1) with
    | .ok (i, _) => exec i f.2
    | .error why => .refused (.reservedEncoding why)

/-- A step in the halted state where no interrupt is accepted: nothing changes (R38, R291), but that a machine which an
interrupt can wake waits for the input's next boundary (`HALT_WAKE`). -/
def State.waitHalted (s : State) : State :=
  match s.cfg.haltWake with
  | .never => s
  | .interrupt => s.tick

/-- What one step does. At a boundary where an interrupt is accepted the entry runs in place of the next instruction (R313,
R314). A halted machine waits. Otherwise the next instruction runs. -/
def atBoundary (s : State) : Res State :=
  if s.accepts then endStep (interruptEntry s.pc { s with halted := false })
  else if s.halted then .next s.waitHalted
  else endStep (runInstr s)

/-- The state with the bytes of instructions, as `encode` gives them, at `pc` and after it, where a fetch reads them: in RAM or in
the ROM image, loaded from outside (log 5). -/
def State.placed (s : State) (bytes : List Byte) : State := s.putBytes .fetch s.pc (inOrder s.cfg.byteOrder bytes)

end Sys2Proof.Machine
end

