-- ==== Sys2Proof/Machine/Step.lean ====
section
/-!
DEFINITION. One step of the machine, and the host's way to place one instruction where the step fetches it.
-/

namespace Sys2Proof.Machine

/-- One step: one instruction, or one interrupt entry in place of it (R313). -/
def step (s : State) : Host.Outcome State Fault Refusal := atBoundary s

/-- `s` with the instruction whose bits are `w` stored where `step` fetches its next instruction: the six bytes of the
longest instruction at `pc`, in the machine's byte order, each in RAM or in the ROM image, where a fetch at its address reads
it. Nothing else is changed. It stands for the program that is loaded from outside (log 5). The bits are those of
this machine's own operand layout and register codes, which after reset are the table's. -/
def State.withFetchWord (s : State) (nbits w : Nat) : State := s.placed (tableBytes nbits w)

end Sys2Proof.Machine
end

