-- ==== Sys2Proof/Machine/Timing.lean ====
section
/-!
DEFINITION. The cycle table (70_reset_and_hazards.md R360, R361). Timing only: no step uses it.
-/

namespace Sys2Proof.Machine

/-- The cycles of one of the four-mode loads, by mode (R360). -/
def loadCycles (mode : Nat) : Nat :=
  match mode with
  | 0 => 2
  | 2 => 4
  | _ => 3

/-- The cycles of one of the four-mode stores, by mode (R360). -/
def storeCycles (mode : Nat) : Nat :=
  match mode with
  | 0 => 3
  | _ => 4

/-- The cycles of an instruction (R360), from its opcode, mode and operand bits; NOT in place has 4 (R361 (b)) and
STOREPB 5 (R361 (c)). -/
def wordCycles (iw : Word) : Nat :=
  let mode := (fMode iw).toNat
  match (fOp iw).toNat with
  | 0x00 => 2
  | 0x01 => 3
  | 0x02 => if mode = 0 then 5 else 6
  | 0x03 => if mode = 2 then 6 else 5
  | 0x04 => 4
  | 0x05 => if mode ≤ 1 then 3 else 4
  | 0x06 => match mode with
    | 0 => 5
    | 1 => 14
    | 2 => 8
    | _ => 5
  | 0x07 => match mode with
    | 0 => 4
    | 1 => 10
    | 2 => 6
    | _ => 5
  | 0x08 => if mode = 2 then 3 else 4
  | 0x09 => if mode = 2 then 3 else 4
  | 0x0A => 4
  | 0x0B => 4
  | 0x0C => if mode = 2 then 3 else 4
  | 0x0D => if mode = 2 then 3 else 4
  | 0x0E => if mode = 2 then 3 else 4
  | 0x0F => 4
  | 0x10 => 3
  | 0x11 => match mode with
    | 0 => 3
    | 1 => 4
    | 2 => 3
    | _ => 4
  | 0x12 => match mode with
    | 0 => 2
    | 1 => 2
    | 2 => 4
    | _ => 3
  | 0x13 => match mode with
    | 0 => 11
    | 1 => 11
    | 2 => 12
    | _ => 5
  | 0x18 => match mode with
    | 0 => 2
    | 1 => 2
    | 2 => 4
    | _ => 3
  | 0x1D => match mode with
    | 0 => 2
    | 1 => 3
    | 2 => 6
    | _ => 5
  | 0x1F => match mode with
    | 0 => 2
    | 1 => 2
    | 2 => 8
    | _ => 16
  | op => if op ≤ 0x17 then loadCycles mode else storeCycles mode

/-- The cycles of an instruction (R360). -/
def cycles (i : Instr) : Nat := wordCycles ((encodeWords i).headD 0)

/-- The cycles of an interrupt entry: "The 16 cycles of INT are the cost of an interrupt entry" (R361 (d)). -/
def entryCycles : Nat := cycles .int

end Sys2Proof.Machine
end

