-- ==== Sys2Proof/Safety.lean ====
section
/-!
DEFINITION. The terms in which claims about the machine are stated: which accesses complete, what they read and
leave, and what an instruction keeps (its frame).
-/

namespace Sys2Proof.Safety

open Sys2Proof.Machine

/-! ### Accesses -/

/-- A word access at the address has a meaning (R56): the address is even, or the configuration ignores bit 0. -/
def Aligned (s : State) (a : Addr) : Prop := a.toNat % 2 = 0 ∨ s.cfg.misaligned = .ignoreBit0

/-- A word read completes (R52, R54, R56): the address is aligned and both bytes of its word have a kind for loads. -/
def WordReadable (s : State) (a : Addr) : Prop :=
  Aligned s a ∧ s.kind .load (wordBase a) ≠ .none ∧ s.kind .load (wordBase a + 1) ≠ .none

/-- A byte read completes (R52, R55): the address has a kind for loads. -/
def ByteReadable (s : State) (a : Addr) : Prop := s.kind .load a ≠ .none

/-- A byte store completes (R52, R55): the address is for stores in RAM or a device. -/
def ByteWritable (s : State) (a : Addr) : Prop := s.kind .store a = .ram ∨ s.kind .store a = .device

/-- A word store completes (R52, R54, R56): the address is aligned, and both bytes of its word are for stores in RAM or a
device. -/
def WordWritable (s : State) (a : Addr) : Prop :=
  Aligned s a ∧ ByteWritable s (wordBase a) ∧ ByteWritable s (wordBase a + 1)

/-- Of accesses made one after another, why the first that is refused is. -/
def firstStop (l : List (Option Refusal)) : Option Refusal := l.findSome? id

/-- Why a byte read at an address is refused, if it is (R52). -/
def byteReadStop (s : State) (a : Addr) : Option Refusal := if s.kind .load a = .none then some .unmapped else none

/-- Why a word read at an address is refused, if it is (R52, R54, R56). -/
def readStop (s : State) (a : Addr) : Option Refusal :=
  if a.toNat % 2 = 1 ∧ s.cfg.misaligned = .refuse then some .misaligned
  else firstStop [byteReadStop s (wordBase a), byteReadStop s (wordBase a + 1)]

/-- Why a byte store at an address is refused, if it is (R52). -/
def byteWriteStop (s : State) (a : Addr) : Option Refusal :=
  if s.kind .store a = .rom then some .romStore
  else if s.kind .store a = .none then some .unmapped
  else none

/-- Why a word store at an address is refused, if it is (R52, R54, R56). -/
def writeStop (s : State) (a : Addr) : Option Refusal :=
  if a.toNat % 2 = 1 ∧ s.cfg.misaligned = .refuse then some .misaligned
  else firstStop [byteWriteStop s (wordBase a), byteWriteStop s (wordBase a + 1)]

/-- Both bytes of the word of an address are a device's for a kind of access: the word access is one bus access (R67). -/
abbrev DeviceWord (s : State) (acc : Access) (a : Addr) : Prop :=
  s.kind acc (wordBase a) = .device ∧ s.kind acc (wordBase a + 1) = .device

/-- The word of two bytes, in the byte order of the configuration (R54). -/
def ordered (s : State) (lower upper : Byte) : Word :=
  match s.cfg.byteOrder with
  | .big => lower ++ upper
  | .little => upper ++ lower

/-- The byte of the word `v` that is at the lower address, in the byte order of the configuration (R54). -/
def lowerOf (s : State) (v : Word) : Byte :=
  match s.cfg.byteOrder with
  | .big => v.extractLsb' 8 8
  | .little => v.extractLsb' 0 8

/-- The byte of the word `v` that is at the higher address, in the byte order of the configuration (R54). -/
def upperOf (s : State) (v : Word) : Byte :=
  match s.cfg.byteOrder with
  | .big => v.extractLsb' 0 8
  | .little => v.extractLsb' 8 8

/-- The byte of memory that an access of a kind finds at an address: that of the ROM image where the address is ROM for it, else
that of RAM (R52). -/
def memByte (s : State) (acc : Access) (a : Addr) : Byte := if s.kind acc a = .rom then s.romByte a else s.ramByte a

/-- The byte that a read gives when `k` values have been drawn (R52). -/
def byteAt (s : State) (k : Nat) (a : Addr) : Byte :=
  if s.kind .load a = .device then Config.deviceByte k a else memByte s .load a

/-- The word that a read at an aligned address gives when `k` values have been drawn: at a device the draw, else the two
bytes (R52, R54). -/
def wordAt (s : State) (k : Nat) (a : Addr) : Word :=
  if DeviceWord s .load a then Config.deviceWord k (wordBase a)
  else ordered s (byteAt s k (wordBase a)) (byteAt s k (wordBase a + 1))

/-- How many values have been drawn after a byte read when `k` were before: one more at a device. -/
def byteDrawsAfter (s : State) (k : Nat) (a : Addr) : Nat := if s.kind .load a = .device then k + 1 else k

/-- How many values have been drawn after a word read when `k` were before: one more where a byte of the word is a device's. -/
def drawsAfter (s : State) (k : Nat) (a : Addr) : Nat :=
  if s.kind .load (wordBase a) = .device ∨ s.kind .load (wordBase a + 1) = .device then k + 1 else k

/-- What is stored at address `k` after the word `v` is stored at `a`, where `old` was: the bytes of the word that are in RAM
change (R52, R54). -/
def cellAfter (s : State) (a : Addr) (v : Word) (k : Nat) (old : Option Byte) : Option Byte :=
  if k = (wordBase a).toNat ∧ s.kind .store (wordBase a) = .ram then some (lowerOf s v)
  else if k = (wordBase a + 1).toNat ∧ s.kind .store (wordBase a + 1) = .ram then some (upperOf s v)
  else old

/-- The output events after the word `v` is stored at `a`, where `old` were before: one word to a device, or the byte of the word
that is a device's (R52, R67). -/
def outAfter (s : State) (a : Addr) (v : Word) (old : List DevWrite) : List DevWrite :=
  if DeviceWord s .store a then .word (wordBase a) v :: old
  else if s.kind .store (wordBase a) = .device then .byte (wordBase a) (lowerOf s v) :: old
  else if s.kind .store (wordBase a + 1) = .device then .byte (wordBase a + 1) (upperOf s v) :: old
  else old

/-- The words `ws` are stored, in this order, and no other store is made: every byte of RAM outside the stored words is as
before, and so is the ROM image; the stores to a device are output events (R52). -/
def StoredWords (s t : State) (ws : List (Addr × Word)) : Prop :=
  (∀ k, t.mem.get? k = ws.foldl (fun old w => cellAfter s w.1 w.2 k old) (s.mem.get? k)) ∧ t.rom = s.rom ∧
    t.out = ws.foldl (fun o w => outAfter s w.1 w.2 o) s.out

/-- The byte `v` is stored at `a` and no other store is made (R59). -/
def StoredByte (s t : State) (a : Addr) (v : Byte) : Prop :=
  (∀ k, t.mem.get? k = if s.kind .store a = .ram ∧ k = a.toNat then some v else s.mem.get? k) ∧ t.rom = s.rom ∧
    t.out = if s.kind .store a = .device then DevWrite.byte a v :: s.out else s.out

/-- The two bytes of the word of an address are RAM for loads and for stores. -/
def InRam (s : State) (a : Addr) : Prop :=
  (s.kind .load (wordBase a) = .ram ∧ s.kind .store (wordBase a) = .ram) ∧
    s.kind .load (wordBase a + 1) = .ram ∧ s.kind .store (wordBase a + 1) = .ram

/-- Nothing is stored: every byte of RAM and of the ROM image is as before, and there is no output event. -/
def NoStore (s t : State) : Prop := (∀ k, t.mem.get? k = s.mem.get? k) ∧ t.rom = s.rom ∧ t.out = s.out

/-! ### Reads of flags -/

/-- The flags `need` can be read (R44): the configuration gives the draw to a read of a flag left undefined, or none of them
is one. -/
def FlagsReadable (s : State) (need : Flags) : Prop :=
  s.cfg.trashedFlags = .draw ∨
    ((need.c = false ∨ s.trashed.c = false) ∧ (need.z = false ∨ s.trashed.z = false) ∧
      (need.n = false ∨ s.trashed.n = false) ∧ (need.v = false ∨ s.trashed.v = false))

/-! ### Frames -/

/-- Every general register outside `P` keeps its value. -/
def RegsKept (P : Gpr → Prop) (s t : State) : Prop := ∀ g, ¬ P g → t.readG g = s.readG g

/-- No general register, so: every general register keeps its value. -/
def noReg : Gpr → Prop := fun _ => False

/-- The two halves of a pair. -/
def pairRegs (n : Idx) : Gpr → Prop := fun g => g = .x n ∨ g = .y n

/-- C, Z, N and V keep their values, and those that are left undefined are so still. -/
def FlagsKept (s t : State) : Prop := (t.c = s.c ∧ t.z = s.z ∧ t.n = s.n ∧ t.v = s.v) ∧ t.trashed = s.trashed

/-- C, Z, N and V are each a draw, from the `k`-th on, and are left undefined (R44). -/
def FlagsDrawn (k : Nat) (t : State) : Prop :=
  (t.c = Config.freeBit k ∧ t.z = Config.freeBit (k + 1) ∧ t.n = Config.freeBit (k + 2) ∧ t.v = Config.freeBit (k + 3)) ∧
    t.trashed = ⟨true, true, true, true⟩

/-- IE, the halted state and its code, the environment's input and the configuration keep their values. -/
def ControlKept (s t : State) : Prop :=
  t.ie = s.ie ∧ t.halted = s.halted ∧ t.haltCode = s.haltCode ∧ t.irq = s.irq ∧ t.cfg = s.cfg

/-- What a general register reads after the 16-bit value `w` is written to it: a Y register keeps bits 7:0 (R22). -/
def keptIn (g : Gpr) (w : Word) : Word :=
  match g with
  | .y _ => w &&& 0x00FF
  | _ => w

/-- General registers outside `P`, the control state and the environment's input keep their values. -/
def Frame (P : Gpr → Prop) (s t : State) : Prop := RegsKept P s t ∧ ControlKept s t

/-- What a rule reads as "PC" in an instruction of `len` bytes (R26, decision D3): the address of the following instruction,
or, if the configuration says so, its own. -/
def pcValue (s : State) (len : Addr) : Addr := if s.cfg.pcRelBase = .nextPc then s.pc + len else s.pc

/-! ### Operand forms, so that one claim covers the forms of an instruction -/

/-- The second operand of a two-operand instruction, by MODE (R170). -/
inductive Src
  | reg (g : Gpr)
  | mem (n : Idx)
  | imm5 (i : Imm5)
  | imm16 (v : Word)
deriving DecidableEq, Repr

/-- The operand can be read: in mode 01, its word access completes. -/
def Src.ok (s : State) : Src → Prop
  | .reg _ => True
  | .mem n => WordReadable s (s.xy n)
  | .imm5 _ => True
  | .imm16 _ => True

/-- Why the operand cannot be read, if it cannot: in mode 01, the refusal of its word access. -/
def Src.stop (s : State) : Src → Option Refusal
  | .reg _ => none
  | .mem n => readStop s (s.xy n)
  | .imm5 _ => none
  | .imm16 _ => none

/-- The value of the operand (R170). -/
def Src.value (s : State) : Src → Word
  | .reg g => s.readG g
  | .mem n => wordAt s s.draws (s.xy n)
  | .imm5 i => i.setWidth 16
  | .imm16 v => v

/-- The length in bytes of an instruction with the operand: two words in mode 11 (R84). -/
def Src.len : Src → Addr
  | .reg _ => 2
  | .mem _ => 2
  | .imm5 _ => 2
  | .imm16 _ => 4

/-- The count of free values after the operand is read. -/
def Src.draws (s : State) : Src → Nat
  | .reg _ => s.draws
  | .mem n => drawsAfter s s.draws (s.xy n)
  | .imm5 _ => s.draws
  | .imm16 _ => s.draws

/-- The two-operand instructions that have all four modes (R170, R190, R230). -/
inductive AluOp
  | add
  | adc
  | sub
  | sbc
  | and
  | or
  | xor
  | cmp
deriving DecidableEq, Repr

/-- The instruction of an operation, a destination and a second operand. -/
def AluOp.instr (op : AluOp) (dst : Gpr) (src : Src) : Instr :=
  match op, src with
  | .add, .reg g => .addReg dst g
  | .add, .mem n => .addMem dst n
  | .add, .imm5 i => .addImm5 dst i
  | .add, .imm16 v => .addImm16 dst v
  | .adc, .reg g => .adcReg dst g
  | .adc, .mem n => .adcMem dst n
  | .adc, .imm5 i => .adcImm5 dst i
  | .adc, .imm16 v => .adcImm16 dst v
  | .sub, .reg g => .subReg dst g
  | .sub, .mem n => .subMem dst n
  | .sub, .imm5 i => .subImm5 dst i
  | .sub, .imm16 v => .subImm16 dst v
  | .sbc, .reg g => .sbcReg dst g
  | .sbc, .mem n => .sbcMem dst n
  | .sbc, .imm5 i => .sbcImm5 dst i
  | .sbc, .imm16 v => .sbcImm16 dst v
  | .and, .reg g => .andReg dst g
  | .and, .mem n => .andMem dst n
  | .and, .imm5 i => .andImm5 dst i
  | .and, .imm16 v => .andImm16 dst v
  | .or, .reg g => .orReg dst g
  | .or, .mem n => .orMem dst n
  | .or, .imm5 i => .orImm5 dst i
  | .or, .imm16 v => .orImm16 dst v
  | .xor, .reg g => .xorReg dst g
  | .xor, .mem n => .xorMem dst n
  | .xor, .imm5 i => .xorImm5 dst i
  | .xor, .imm16 v => .xorImm16 dst v
  | .cmp, .reg g => .cmpReg dst g
  | .cmp, .mem n => .cmpMem dst n
  | .cmp, .imm5 i => .cmpImm5 dst i
  | .cmp, .imm16 v => .cmpImm16 dst v

/-- The flags that an operation reads: C, in ADC and SBC (R30). -/
def AluOp.reads : AluOp → Flags
  | .adc => ⟨true, false, false, false⟩
  | .sbc => ⟨true, false, false, false⟩
  | _ => ⟨false, false, false, false⟩

/-- The operand of NOT: another register, memory, or the destination itself (R194 to R196). -/
inductive NotSrc
  | reg (g : Gpr)
  | mem (n : Idx)
  | self
deriving DecidableEq, Repr

/-- The operand of NOT can be read. -/
def NotSrc.ok (s : State) : NotSrc → Prop
  | .reg _ => True
  | .mem n => WordReadable s (s.xy n)
  | .self => True

/-- Why the operand of NOT cannot be read, if it cannot. -/
def NotSrc.stop (s : State) : NotSrc → Option Refusal
  | .reg _ => none
  | .mem n => readStop s (s.xy n)
  | .self => none

/-- The value that NOT complements (R194 to R196). -/
def NotSrc.value (s : State) (dst : Gpr) : NotSrc → Word
  | .reg g => s.readG g
  | .mem n => wordAt s s.draws (s.xy n)
  | .self => s.readG dst

/-- The count of free values after the operand of NOT is read. -/
def NotSrc.draws (s : State) : NotSrc → Nat
  | .reg _ => s.draws
  | .mem n => drawsAfter s s.draws (s.xy n)
  | .self => s.draws

/-- The NOT of a form. -/
def notOf (dst : Gpr) : NotSrc → Instr
  | .reg g => .notReg dst g
  | .mem n => .notMem dst n
  | .self => .notSelf dst

/-- The four addressing modes of loads and stores (R126). -/
inductive Ea
  | ind (n : Idx)
  | idx (n m : Idx)
  | pc (off : Word)
  | off (n : Idx) (i : Imm5)
deriving DecidableEq, Repr

/-- The effective address of a mode (R60 to R63). -/
def Ea.addr (s : State) : Ea → Addr
  | .ind n => s.eaInd n
  | .idx n m => s.eaIdx n m
  | .pc k => s.eaPc 4 k
  | .off n i => s.eaOff n i

/-- The length in bytes of a load or store in a mode (R126). -/
def Ea.len : Ea → Addr
  | .ind _ => 2
  | .idx _ _ => 2
  | .pc _ => 4
  | .off _ _ => 2

/-- LOADD, LOADX or LOADY, by the register loaded, in a mode (R123 to R125). -/
def loadOf (dst : Gpr) (ea : Ea) : Instr :=
  match dst, ea with
  | .d r, .ind n => .loaddInd r n
  | .d r, .idx n m => .loaddIdx r n m
  | .d r, .pc off => .loaddPc r off
  | .d r, .off n i => .loaddOff r n i
  | .x r, .ind n => .loadxInd r n
  | .x r, .idx n m => .loadxIdx r n m
  | .x r, .pc off => .loadxPc r off
  | .x r, .off n i => .loadxOff r n i
  | .y r, .ind n => .loadyInd r n
  | .y r, .idx n m => .loadyIdx r n m
  | .y r, .pc off => .loadyPc r off
  | .y r, .off n i => .loadyOff r n i

/-- LOADB in a mode (R127). -/
def loadbOf (r : Idx) : Ea → Instr
  | .ind n => .loadbInd r n
  | .idx n m => .loadbIdx r n m
  | .pc off => .loadbPc r off
  | .off n i => .loadbOff r n i

/-- STORED, STOREX or STOREY, by the register stored, in a mode (R131 to R133). -/
def storeOf (src : Gpr) (ea : Ea) : Instr :=
  match src, ea with
  | .d r, .ind n => .storedInd r n
  | .d r, .idx n m => .storedIdx r n m
  | .d r, .pc off => .storedPc r off
  | .d r, .off n i => .storedOff r n i
  | .x r, .ind n => .storexInd r n
  | .x r, .idx n m => .storexIdx r n m
  | .x r, .pc off => .storexPc r off
  | .x r, .off n i => .storexOff r n i
  | .y r, .ind n => .storeyInd r n
  | .y r, .idx n m => .storeyIdx r n m
  | .y r, .pc off => .storeyPc r off
  | .y r, .off n i => .storeyOff r n i

/-- STOREB in a mode (R135). -/
def storebOf (r : Idx) : Ea → Instr
  | .ind n => .storebInd r n
  | .idx n m => .storebIdx r n m
  | .pc off => .storebPc r off
  | .off n i => .storebOff r n i

/-- The four LEA forms: the source of the address (R161 to R164). -/
inductive LeaSrc
  | copy (m : Idx)
  | idx (m o : Idx)
  | pc (off : Word)
  | off (m : Idx) (i : Imm5)
deriving DecidableEq, Repr

/-- The LEA of a form. -/
def leaOf (n : Idx) : LeaSrc → Instr
  | .copy m => .leaCopy n m
  | .idx m o => .leaIdx n m o
  | .pc off => .leaPc n off
  | .off m i => .leaOff n m i

/-- The address that LEA computes (R161 to R164). -/
def LeaSrc.addr (s : State) : LeaSrc → Addr
  | .copy m => s.xy m
  | .idx m o => s.eaIdx m o
  | .pc k => s.eaPc 4 k
  | .off m i => s.eaOff m i

/-- The length of a LEA in bytes. -/
def LeaSrc.len : LeaSrc → Addr
  | .copy _ => 2
  | .idx _ _ => 2
  | .pc _ => 4
  | .off _ _ => 2

/-- The three calls with their target, and their length in bytes (R252 to R254). -/
inductive Call
  | abs (a : Addr)
  | page (a : Word)
  | rel (off : Word)
deriving DecidableEq, Repr

/-- The instruction of a call. -/
def Call.instr : Call → Instr
  | .abs a => .call24 a
  | .page a => .call16 a
  | .rel off => .callr off

/-- The length of a call in bytes. -/
def Call.len : Call → Addr
  | .abs _ => 6
  | .page _ => 4
  | .rel _ => 4

/-- The target of a call: absolute, in the bank of PC, or relative to PC (R26). -/
def Call.target (s : State) : Call → Addr
  | .abs a => a
  | .page a => mkAddr (bankOf (pcValue s 4)) a
  | .rel off => pcValue s 4 + off.signExtend 24

/-- The value of a MOVE source (R27, R142): PCH and PCL are of what PC reads as in a MOVE (R26), by default the address after
it. -/
def moveValue (s : State) : MoveSrc → Word
  | .x i => s.readG (.x i)
  | .y i => s.readG (.y i)
  | .sr => s.srWord
  | .pch => (bankOf (pcValue s 2)).setWidth 16
  | .pcl => offsetOf (pcValue s 2)

/-- The flags that a MOVE source reads: all four, in SR (R36). -/
def moveReads : MoveSrc → Flags
  | .sr => ⟨true, true, true, true⟩
  | _ => ⟨false, false, false, false⟩

/-- What a single PUSH pushes: a register or SR (R274), a 5-bit (R276) or a 16-bit (R280) immediate. -/
inductive PushSrc
  | reg (r : StackReg)
  | imm5 (i : Imm5)
  | imm16 (v : Word)
deriving DecidableEq, Repr

/-- The PUSH of a source on the stack pair `p`. -/
def pushOf (p : Idx) : PushSrc → Instr
  | .reg r => .pushReg r p
  | .imm5 i => .pushImm5 i p
  | .imm16 v => .pushi v p

/-- The word that a PUSH stores: a Y register and SR are zero-extended. -/
def PushSrc.value (s : State) : PushSrc → Word
  | .reg (.gpr g) => s.readG g
  | .reg .sr => s.srWord
  | .imm5 i => i.setWidth 16
  | .imm16 v => v

/-- The flags that a PUSH reads: all four, in SR (R36). -/
def PushSrc.reads : PushSrc → Flags
  | .reg .sr => ⟨true, true, true, true⟩
  | _ => ⟨false, false, false, false⟩

/-- The length of a PUSH in bytes. -/
def PushSrc.len : PushSrc → Addr
  | .reg _ => 2
  | .imm5 _ => 2
  | .imm16 _ => 4

/-- The operand is no half of the stack pair (R283). -/
def PushSrc.ok (p : Idx) : PushSrc → Prop
  | .reg r => halfOf r p = false
  | .imm5 _ => True
  | .imm16 _ => True

/-- The branch of a condition, or the unconditional one, with a short offset (R241, R243). -/
def branchShortOf (i : Imm5) : Option Cond → Instr
  | some c => bccSInstr c i
  | none => .braS i

/-- The branch of a condition, or the unconditional one, with a long offset (R242, R244). -/
def branchLongOf (off : Word) : Option Cond → Instr
  | some c => bccLInstr c off
  | none => .braL off

/-- A condition is true in a state: the tests on C, Z, N and V of R87; no condition is always true. -/
def holds (s : State) : Option Cond → Prop
  | none => True
  | some .eq => s.z = true
  | some .ne => s.z = false
  | some .cs => s.c = true
  | some .cc => s.c = false
  | some .lt => s.n ≠ s.v
  | some .gt => s.z = false ∧ s.n = s.v
  | some .ge => s.n = s.v
  | some .le => s.z = true ∨ s.n ≠ s.v

/-- The flags that a condition reads (R87); no condition reads none. -/
def condFlags : Option Cond → Flags
  | none => ⟨false, false, false, false⟩
  | some .eq | some .ne => ⟨false, true, false, false⟩
  | some .cs | some .cc => ⟨true, false, false, false⟩
  | some .lt | some .ge => ⟨false, false, true, true⟩
  | some .gt | some .le => ⟨false, true, true, true⟩

/-- The instructions that write a flag: the arithmetic and logical groups, CMP, INC and DEC of a pair, LEA, a MOVE to SR,
POP SR and RTI (R30 to R33, R44, R165). -/
def writesFlags : Instr → Bool
  | .addReg _ _ | .addMem _ _ | .addImm5 _ _ | .addImm16 _ _ => true
  | .adcReg _ _ | .adcMem _ _ | .adcImm5 _ _ | .adcImm16 _ _ => true
  | .subReg _ _ | .subMem _ _ | .subImm5 _ _ | .subImm16 _ _ => true
  | .sbcReg _ _ | .sbcMem _ _ | .sbcImm5 _ _ | .sbcImm16 _ _ => true
  | .andReg _ _ | .andMem _ _ | .andImm5 _ _ | .andImm16 _ _ => true
  | .orReg _ _ | .orMem _ _ | .orImm5 _ _ | .orImm16 _ _ => true
  | .xorReg _ _ | .xorMem _ _ | .xorImm5 _ _ | .xorImm16 _ _ => true
  | .notReg _ _ | .notMem _ _ | .notSelf _ => true
  | .cmpReg _ _ | .cmpMem _ _ | .cmpImm5 _ _ | .cmpImm16 _ _ => true
  | .incXY _ _ | .decXY _ _ => true
  | .leaCopy _ _ | .leaIdx _ _ _ | .leaPc _ _ | .leaOff _ _ _ => true
  | .moveD .sr _ | .moveS .sr _ => true
  | .popReg .sr _ => true
  | .rti => true
  | _ => false

/-- The instruction is a HALT. -/
def isHalt : Instr → Bool
  | .halt _ => true
  | _ => false

/-- The instructions that write IE: DINT, EINT, RTI and INT (R29, R298). -/
def writesIE : Instr → Bool
  | .dint | .eint | .rti | .int => true
  | _ => false

/-- The `k` words of memory that fetches from `a` on find, in the byte order of the configuration, each as its high and its low
byte. -/
def wordsFrom (s : State) : Nat → Addr → List Byte
  | 0, _ => []
  | k + 1, a => wordBytes (ordered s (memByte s .fetch a) (memByte s .fetch (a + 1))) ++ wordsFrom s k (a + 2)

/-- An instruction of the bytes `bs` stands in RAM or ROM from `a` on: the words there are, in the layout and with the
register codes of the configuration, those of `bs`. -/
def CodeAt (s : State) (a : Addr) (bs : List Byte) : Prop :=
  (∀ k, k < bs.length → s.kind .fetch (a + BitVec.ofNat 24 k) = .ram ∨ s.kind .fetch (a + BitVec.ofNat 24 k) = .rom) ∧
    canonBytes s.cfg (wordsFrom s (bs.length / 2) a) = bs

/-! ### Invariants -/

/-- What every step keeps of the memory: its cells are in canonical form, those of RAM each at an address that is RAM for some
kind of access, those of the ROM image each at one that is ROM for some kind (R52: only those kinds hold bytes). -/
def MemoryInv (s : State) : Prop :=
  (s.mem.wf ∧ ∀ c ∈ s.mem, ∃ acc, s.kind acc (BitVec.ofNat 24 c.1) = .ram) ∧
    s.rom.wf ∧ ∀ c ∈ s.rom, ∃ acc, s.kind acc (BitVec.ofNat 24 c.1) = .rom

end Sys2Proof.Safety
end

