-- ==== Sys2Proof/Certificates/Slice0/Obligations.lean ====
section
/-!
DEFINITION. The statements for the provers. Each docstring names the rules of spec/ that the statement rests on and,
where it rests on a choice of the model or on a decision of the spec, the entry of the assumption log.
-/

open Sys2Proof Sys2Proof.Machine Sys2Proof.Safety

/-! ## Encoding -/

/-- Decoding the bytes of a well-formed instruction gives that instruction back and leaves the bytes after it (R80 to
R103; the operand layout is the spec's decision, log 23). -/
def Obligations.DecodeOfEncode : Prop :=
  ∀ (i : Instr) (rest : List Byte), i.wellFormed = true → decode (encode i ++ rest) = .ok (i, rest)

/-- Only the encodings of well-formed instructions decode: no other byte string stands for an instruction (R104; log 24). -/
def Obligations.DecodeOnlyEncodings : Prop :=
  ∀ (bs rest : List Byte) (i : Instr),
    decode bs = .ok (i, rest) → i.wellFormed = true ∧ bs = encode i ++ rest

/-- Words that the rules of the spec give for instructions decode to those instructions: `LOADI D0, #20` (R121),
`LOADD D2, [PC+#$0010]` (R123), `ADC D2, [XY1]` (R173), `SBC X1, #$8000` (R175), `LOOKUP D3, #$FE` (R202),
`SNE D2, #$0005` (R236), `BNE.L` -12 (R242), `CALL24 $010040` (R252), `PUSH #31, XY3` (R276), `RTI` (R296). -/
def Obligations.SpecWordsDecode : Prop :=
  decode [0xC0, 0x14] = .ok (.loadiImm5 (.d .i0) 20, []) ∧
    decode [0xA4, 0x40, 0x00, 0x10] = .ok (.loaddPc .i2 0x0010, []) ∧
    decode [0x4A, 0x41] = .ok (.adcMem (.d .i2) .i1, []) ∧
    decode [0x5E, 0xA0, 0x80, 0x00] = .ok (.sbcImm16 (.x .i1) 0x8000, []) ∧
    decode [0x0F, 0xF3] = .ok (.lookup 0x7F .i3, []) ∧
    decode [0x20, 0x41, 0x00, 0x05] = .ok (.sne (.d .i2) 5, []) ∧
    decode [0x8A, 0x20, 0xFF, 0xF4] = .ok (.bneL 0xFFF4, []) ∧
    decode [0x98, 0x00, 0x00, 0x01, 0x00, 0x40] = .ok (.call24 0x010040, []) ∧
    decode [0x37, 0x9F] = .ok (.pushImm5 31 .i3, []) ∧ decode [0xFC, 0x00] = .ok (.rti, [])

/-- The spare opcode $1E and the reserved modes of opcodes $00, $02, $04 and $0F are no instruction, whatever the other
bits and the following bytes are (R81, R104; log 24). -/
def Obligations.ReservedModesRejected : Prop :=
  ∀ (iw : Word) (rest : List Byte),
    (fOp iw = 0x1E → decode (wordBytes iw ++ rest) = .error .spareOpcode) ∧
      ((fOp iw = 0x00 ∨ fOp iw = 0x02) → 2 ≤ (fMode iw).toNat →
        decode (wordBytes iw ++ rest) = .error .reservedMode) ∧
      (fOp iw = 0x04 → 1 ≤ (fMode iw).toNat → decode (wordBytes iw ++ rest) = .error .reservedMode) ∧
      (fOp iw = 0x0F → fMode iw = 3 → decode (wordBytes iw ++ rest) = .error .reservedMode)

/-! ## The step -/

/-- A step runs the decoded instruction: where the processor is not halted and accepts no interrupt (IE = 0 or no line
asserted, R313), and the bytes fetched at `pc`, read in the configuration's operand layout and register codes (log 48),
decode to `i`, the step is `exec` of `i` on the state that the fetch leaves, after which the environment's input moves on by
one boundary (log 9). A stop of `exec` is the stop of the step. -/
def Obligations.StepRunsDecoded : Prop :=
  ∀ (s t : State) (bs rest : List Byte) (i : Instr),
    s.halted = false → (s.ie = false ∨ s.irqNow = 0) → fetch s = .next (bs, t) →
    decode (canonBytes s.cfg bs) = .ok (i, rest) →
      (∀ u, exec i t = .next u → step s = .next { u with irq := u.irq.tail }) ∧
        ∀ e, exec i t = .refused e → step s = .refused e

/-- Where the words of a well-formed instruction, in the configuration's byte order, layout and register codes, stand at an
even `pc` in RAM or ROM, and the processor is not halted and accepts no interrupt, the step is `exec` of that instruction on
the very state (R57, R84; decisions D1, D2, D10, D11, logs 17, 18, 48). -/
def Obligations.StepRunsEncoded : Prop :=
  ∀ (s : State) (i : Instr),
    s.halted = false → (s.ie = false ∨ s.irqNow = 0) → s.pc.toNat % 2 = 0 → i.wellFormed = true →
    CodeAt s s.pc (encode i) →
      (∀ u, exec i s = .next u → step s = .next { u with irq := u.irq.tail }) ∧
        ∀ e, exec i s = .refused e → step s = .refused e

/-- A step at an odd `pc` is refused, and so are a step at a word of which a byte has no kind for a fetch, and a step at
bytes that are a reserved encoding (R52, R57, R104; decisions D2, D15, D33, logs 18, 24, 38), where the processor is not
halted and accepts no interrupt. -/
def Obligations.StepRefusals : Prop :=
  ∀ s : State, s.halted = false → (s.ie = false ∨ s.irqNow = 0) →
    (s.pc.toNat % 2 = 1 → s.cfg.misaligned = .refuse → step s = .refused .oddPc) ∧
      (Aligned s s.pc → s.kind .fetch (wordBase s.pc) = .none ∨ s.kind .fetch (wordBase s.pc + 1) = .none →
        step s = .refused .unmapped) ∧
      (∀ bs t why, fetch s = .next (bs, t) → decode (canonBytes s.cfg bs) = .error why →
        step s = .refused (.reservedEncoding why))

/-- Taking an interrupt (R313, R314, R316; decisions D25 to D27, log 30): with IE = 1, a line asserted, the processor not halted
(or one that an interrupt wakes, decision D30, log 47), the three words below XY3 writable and the vector readable, the step
pushes `pc` (low word, then zero-extended bank) and the zero-extended SR, clears IE (if the configuration does), and puts `pc`
at the address that the vector then holds; C, Z, N, V and every register but XY3 stay. The entry reads SR: where the
configuration refuses that read (R44, decision D24, logs 47, 49), the step is refused. Where one of these accesses is refused, so
is the step, for the reason of the first. -/
def Obligations.InterruptTaken : Prop :=
  ∀ s : State, (s.halted = false ∨ s.cfg.haltWake = .interrupt) → s.ie = true → s.irqNow ≠ 0 →
    let b := s.cfg.vectorBase
    let k1 := drawsAfter s s.draws b
    (FlagsReadable s ⟨true, true, true, true⟩ → WordWritable s (s.xy .i3 - 2) → WordWritable s (s.xy .i3 - 4) →
      WordWritable s (s.xy .i3 - 6) → WordReadable s b → WordReadable s (b + 2) →
      ∃ t, step s = .next t ∧
        StoredWords s t [(s.xy .i3 - 2, s.pc.extractLsb' 0 16), (s.xy .i3 - 4, (s.pc.extractLsb' 16 8).setWidth 16),
          (s.xy .i3 - 6, s.srWord)] ∧
        t.xy .i3 = s.xy .i3 - 6 ∧ RegsKept (pairRegs .i3) s t ∧ FlagsKept s t ∧ t.ie = !s.cfg.intEntry.clearIe ∧
        t.pc = (wordAt t s.draws b).extractLsb' 0 8 ++ wordAt t k1 (b + 2) ∧ t.halted = false ∧
        t.haltCode = s.haltCode ∧ t.draws = drawsAfter s k1 (b + 2) ∧ t.irq = s.irq.tail ∧ t.cfg = s.cfg) ∧
    (¬ FlagsReadable s ⟨true, true, true, true⟩ → step s = .refused .trashedFlag) ∧
    ∀ why, FlagsReadable s ⟨true, true, true, true⟩ →
      firstStop [writeStop s (s.xy .i3 - 2), writeStop s (s.xy .i3 - 4), writeStop s (s.xy .i3 - 6), readStop s b,
        readStop s (b + 2)] = some why → step s = .refused why

/-- INT in the instruction stream performs the entry sequence with the address after it as the return address, whatever IE
is, and is refused where an access of the entry is (R297; decision D29, log 31) and where the configuration refuses its read of
SR (R44, decision D24, logs 47, 49); in a configuration that refuses INT, it is refused (log 47). -/
def Obligations.IntEnters : Prop :=
  ∀ s : State,
    let b := s.cfg.vectorBase
    let k1 := drawsAfter s s.draws b
    let ret := pcValue s 2
    (s.cfg.intEntry.inStream = true →
      (FlagsReadable s ⟨true, true, true, true⟩ → WordWritable s (s.xy .i3 - 2) → WordWritable s (s.xy .i3 - 4) →
        WordWritable s (s.xy .i3 - 6) → WordReadable s b → WordReadable s (b + 2) →
        ∃ t, exec .int s = .next t ∧
          StoredWords s t [(s.xy .i3 - 2, ret.extractLsb' 0 16), (s.xy .i3 - 4, (ret.extractLsb' 16 8).setWidth 16),
            (s.xy .i3 - 6, s.srWord)] ∧
          t.xy .i3 = s.xy .i3 - 6 ∧ RegsKept (pairRegs .i3) s t ∧ FlagsKept s t ∧
          t.ie = (s.ie && !s.cfg.intEntry.clearIe) ∧
          t.pc = (wordAt t s.draws b).extractLsb' 0 8 ++ wordAt t k1 (b + 2) ∧ t.halted = s.halted ∧
          t.haltCode = s.haltCode ∧ t.irq = s.irq ∧ t.draws = drawsAfter s k1 (b + 2) ∧ t.cfg = s.cfg) ∧
      (¬ FlagsReadable s ⟨true, true, true, true⟩ → exec .int s = .refused .trashedFlag) ∧
      ∀ why, FlagsReadable s ⟨true, true, true, true⟩ →
        firstStop [writeStop s (s.xy .i3 - 2), writeStop s (s.xy .i3 - 4), writeStop s (s.xy .i3 - 6), readStop s b,
          readStop s (b + 2)] = some why → exec .int s = .refused why) ∧
    (s.cfg.intEntry.inStream = false → exec .int s = .refused .intInStream)

/-- A halted machine stays as it is, however many steps are taken, whatever IE and the lines are (R38, R291, R321; decision
D30, log 32). In a configuration where an interrupt wakes it (log 47), it waits, and only the input moves on, while no
interrupt is accepted. -/
def Obligations.HaltedIsFinal : Prop :=
  ∀ (s : State) (k : Nat), s.halted = true →
    (s.cfg.haltWake = .never → Host.Core.run core k s = .next s) ∧
      (s.cfg.haltWake = .interrupt → (∀ j < k, s.ie = false ∨ s.irq.getD j 0 = 0) →
        Host.Core.run core k s = .next { s with irq := s.irq.drop k })

/-! ## Memory -/

/-- What an access does, by the kind of the address of each of its bytes for a load or for a store (R52, R54, R56, R59, R67;
decisions D1, D2, D32, D33, logs 4, 6 to 8, 17, 18, 38, 46). A byte read of RAM gives the byte stored there, of ROM that of the
image, of a device a free value; a byte store in RAM changes that byte and no other, one to a device is an output event; a store
to ROM, and an access to an address without a kind, are refused. At an odd address a word access is refused, or (log 47) is that
of the word which has the byte. A word of a device is one access; any other word access is the accesses of its two bytes, the
lower first, and is refused where one of them is. -/
def Obligations.AccessesByKind : Prop :=
  ∀ (s : State) (a b : Addr), b.toNat = a.toNat / 2 * 2 →
    let order (lower upper : Byte) : Word :=
      match s.cfg.byteOrder with
      | .big => lower ++ upper
      | .little => upper ++ lower
    let device (acc : Access) : Prop := s.kind acc b = .device ∧ s.kind acc (b + 1) = .device
    (¬ Aligned s a → readWord a s = .refused .misaligned ∧ ∀ v, writeWord a v s = .refused .misaligned) ∧
    (Aligned s a →
      (device .load → readWord a s = .next (Config.deviceWord s.draws b, { s with draws := s.draws + 1 })) ∧
      (¬ device .load →
        (∀ lower upper t u, readByte b s = .next (lower, t) → readByte (b + 1) t = .next (upper, u) →
          readWord a s = .next (order lower upper, u)) ∧
        ∀ why, readByte b s = .refused why ∨ readByte (b + 1) s = .refused why → readWord a s = .refused why) ∧
      (device .store → ∀ v, writeWord a v s = .next { s with out := .word b v :: s.out }) ∧
      (¬ device .store → ∀ lower upper,
        (∀ t u, writeByte b lower s = .next t → writeByte (b + 1) upper t = .next u →
          writeWord a (order lower upper) s = .next u) ∧
        (∀ why, writeByte b lower s = .refused why → writeWord a (order lower upper) s = .refused why) ∧
        ∀ t why, writeByte b lower s = .next t → writeByte (b + 1) upper t = .refused why →
          writeWord a (order lower upper) s = .refused why)) ∧
    (s.kind .load a = .ram →
      readByte a s = .next ((s.mem.get? a.toNat).getD (Config.unwrittenByte a.toNat), s)) ∧
    (s.kind .load a = .rom →
      readByte a s = .next ((s.rom.get? a.toNat).getD (Config.blankRomByte a.toNat), s)) ∧
    (s.kind .load a = .device →
      readByte a s = .next (Config.deviceByte s.draws a, { s with draws := s.draws + 1 })) ∧
    (s.kind .load a = .none → readByte a s = .refused .unmapped) ∧
    ∀ v : Byte,
      (s.kind .store a = .ram → ∃ m, writeByte a v s = .next { s with mem := m } ∧
        ∀ k, m.get? k = if k = a.toNat then some v else s.mem.get? k) ∧
      (s.kind .store a = .rom → writeByte a v s = .refused .romStore) ∧
      (s.kind .store a = .device → writeByte a v s = .next { s with out := .byte a v :: s.out }) ∧
      (s.kind .store a = .none → writeByte a v s = .refused .unmapped)

/-- The configuration (R8, log 45). The first row of a map that has an address decides its kind for each kind of access, and an
address in no row has none (R52, log 46). The default has the map of R51 (decision D33, log
6), for every kind of access, and the spec's default of each other parameter (decisions D1 to D3, D10 to D12, D24, D26 to D30,
logs 11, 17 to 19, 23, 29 to 32): with it, an instruction word is read as it stands. The reset state has the default. -/
def Obligations.MemoryMap : Prop :=
  (∀ (r : Region) (map : List Region) (acc : Access) (a : Addr),
    kindIn [] acc a = .none ∧
      kindIn (r :: map) acc a =
        if r.first.toNat ≤ a.toNat ∧ a.toNat ≤ r.last.toNat then
          match acc with
          | .fetch => r.fetch
          | .load => r.load
          | .store => r.store
        else kindIn map acc a) ∧
    (∀ (s : State) (acc : Access) (a : Addr), s.cfg = Config.default →
      (s.kind acc a = .rom ↔ a.toNat ≤ 0x1FFFFF) ∧
        (s.kind acc a = .ram ↔ 0x200000 ≤ a.toNat ∧ a.toNat ≤ 0x7FFFFF) ∧
        (s.kind acc a = .none ↔ 0x800000 ≤ a.toNat ∧ a.toNat ≤ 0xFEFFFF) ∧
        (s.kind acc a = .device ↔ 0xFF0000 ≤ a.toNat)) ∧
    (∀ (bs : List Byte), canonBytes Config.default bs = bs) ∧
    State.reset.cfg = Config.default ∧ Config.default.vectorBase = 0x200000 ∧ Config.default.byteOrder = .big ∧
    Config.default.misaligned = .refuse ∧ Config.default.pcRelBase = .nextPc ∧
    Config.default.trashedFlags = .draw ∧ Config.default.lookupAddr = ⟨0, 65536, 2⟩ ∧
    Config.default.intEntry = ⟨true, true, true⟩ ∧ Config.default.haltWake = .never

/-- A word stored in RAM is read back as it was stored, in the byte order of the configuration (by default its high byte at the
lower address), and what every other byte of RAM and ROM reads as is unchanged (R52, R54; decision D1, log 17). -/
def Obligations.WordStoreReadBack : Prop :=
  ∀ (s : State) (a b : Addr) (v : Word), Aligned s a → InRam s a → b.toNat = a.toNat / 2 * 2 →
    ∃ t, writeWord a v s = .next t ∧ readWord a t = .next (v, t) ∧
      (s.cfg.byteOrder = .big →
        readByte b t = .next (v.extractLsb' 8 8, t) ∧ readByte (b + 1) t = .next (v.extractLsb' 0 8, t)) ∧
      (s.cfg.byteOrder = .little →
        readByte b t = .next (v.extractLsb' 0 8, t) ∧ readByte (b + 1) t = .next (v.extractLsb' 8 8, t)) ∧
      ∀ c : Addr, c ≠ b → c ≠ b + 1 → s.kind .load c = .ram ∨ s.kind .load c = .rom →
        ∃ w, readByte c s = .next (w, s) ∧ readByte c t = .next (w, t)

/-- The effective addresses in terms of numbers: the pair is its Y half times 65536 plus its X half; the D index and the IMM5
are unsigned, the PC-relative offset is signed and counted from PC, which by default is the following instruction, all modulo
2^24; the paged address has no addition (R23, R26, R60 to R64, R71; decisions D3 to D5, D7, logs 19 to 21; PC as the
instruction's own address: log 47). -/
def Obligations.EffectiveAddresses : Prop :=
  ∀ (s : State) (n m : Idx) (off : Word) (i : Imm5) (len : Nat),
    (s.eaInd n).toNat = (s.readG (.y n)).toNat * 65536 + (s.readG (.x n)).toNat ∧
      (s.eaIdx n m).toNat = ((s.eaInd n).toNat + (s.readG (.d m)).toNat) % 2 ^ 24 ∧
      (s.eaOff n i).toNat = ((s.eaInd n).toNat + i.toNat) % 2 ^ 24 ∧
      (s.cfg.pcRelBase = .nextPc →
        ((s.eaPc len off).toNat : Int) = ((s.pc.toNat : Int) + len + off.toInt) % 2 ^ 24) ∧
      (s.cfg.pcRelBase = .thisPc →
        ((s.eaPc len off).toNat : Int) = ((s.pc.toNat : Int) + off.toInt) % 2 ^ 24) ∧
      (s.eaPaged n off).toNat = (s.readG (.y n)).toNat * 65536 + off.toNat

/-! ## Reset -/

/-- After reset `pc` is $00_0000, IE is 0 and the processor is not halted, and the first step is an instruction fetch; reset of
a running or halted machine gives the values of its `RESET_STATE`, keeps the ROM image and the configuration and keeps no byte
of RAM (R42, R351; the spec's decision D31, logs 3, 40 and 45). That no byte is in the ROM image at `State.reset` is the model's
choice (log 5): the spec gives ROM the program image, which the model loads from outside. So is that no flag is marked as left
undefined after reset (log 49), and so every flag can be read then in every configuration. -/
def Obligations.ResetValues : Prop :=
  (State.reset.pc = 0 ∧ State.reset.ie = false ∧ State.reset.halted = false ∧
      (∀ a, State.reset.mem.get? a = none ∧ State.reset.rom.get? a = none) ∧
      State.reset.trashed = ⟨false, false, false, false⟩ ∧ State.reset.accepts = false) ∧
    ∀ s : State, (applyReset s).pc = s.cfg.resetState.pc ∧ (applyReset s).ie = s.cfg.resetState.ie ∧
      (applyReset s).halted = s.cfg.resetState.halted ∧ (applyReset s).haltCode = s.cfg.resetState.haltCode ∧
      (applyReset s).d = s.cfg.resetState.d ∧ (applyReset s).x = s.cfg.resetState.x ∧
      (applyReset s).y = s.cfg.resetState.y ∧ (applyReset s).c = s.cfg.resetState.c ∧
      (applyReset s).z = s.cfg.resetState.z ∧ (applyReset s).n = s.cfg.resetState.n ∧
      (applyReset s).v = s.cfg.resetState.v ∧ (applyReset s).cfg = s.cfg ∧
      (s.cfg = Config.default →
        (applyReset s).pc = 0 ∧ (applyReset s).ie = false ∧ (applyReset s).halted = false) ∧
      (∀ k, (applyReset s).mem.get? k = none) ∧ (applyReset s).rom = s.rom ∧
      (applyReset s).trashed = ⟨false, false, false, false⟩ ∧ FlagsReadable (applyReset s) ⟨true, true, true, true⟩

/-! ## Invariants of every step -/

/-- Every step keeps RAM and the ROM image in canonical form, with cells only at addresses that are RAM, or ROM, for some kind
of access. -/
def Obligations.StepKeepsInv : Prop :=
  ∀ s t : State, MemoryInv s → step s = .next t → MemoryInv t

/-- The state after reset has the invariant. -/
def Obligations.ResetInv : Prop := MemoryInv State.reset

/-- A step stores only where a store is one in RAM, never changes the ROM image, takes no output event back, does not change the
configuration, and the count of the free values drawn never falls (R16, R52; decision D33, logs 6, 8, 13, 45). -/
def Obligations.StepStoresOnlyInRam : Prop :=
  ∀ s t : State, step s = .next t →
    (∀ a : Addr, s.kind .store a ≠ .ram → t.mem.get? a.toNat = s.mem.get? a.toNat) ∧
      t.rom = s.rom ∧ (∃ new, t.out = new ++ s.out) ∧ t.cfg = s.cfg ∧ s.draws ≤ t.draws

/-- Only HALT halts and writes `halt_code`, only DINT, EINT, RTI and INT write IE, and no instruction writes the
environment's input or the configuration (R29, R34, R38, R298; logs 9, 32, 45). -/
def Obligations.ControlWriters : Prop :=
  ∀ (i : Instr) (s t : State), exec i s = .next t →
    (isHalt i = false → t.halted = s.halted ∧ t.haltCode = s.haltCode) ∧ (writesIE i = false → t.ie = s.ie) ∧
      t.irq = s.irq ∧ t.cfg = s.cfg

/-- No instruction but the arithmetic and logical groups, CMP, INC and DEC of a pair, LEA, a MOVE to SR, POP SR and RTI
changes a flag, or one of the model's own marks of the flags left undefined (log 49): in particular no load, store,
MOVE or SWAP but a MOVE to SR (R120), and no PUSH or POP but POP SR (R272). -/
def Obligations.FlagWriters : Prop :=
  ∀ (i : Instr) (s t : State), exec i s = .next t → writesFlags i = false → FlagsKept s t

/-! ## Arithmetic and logic -/

/-- ADD and ADC in their four modes complete where the operand is readable and give the 16-bit sum, with C the carry out of bit
15, Z and N from the sum and V exactly when the signed sum does not fit; where the read of a memory operand is refused (an odd
address, an address without a kind), so is the instruction, and so is ADC where the configuration refuses its read of C (R30,
R44, R52, R56, R170 to R173, R176; decisions D2, D16, D17, D24, logs 18, 25, 38, 47, 49). -/
def Obligations.AddAndAdc : Prop :=
  ∀ (s : State) (dst : Gpr) (src : Src) (withCarry : Bool),
    let op : AluOp := if withCarry then .adc else .add
    let i := AluOp.instr op dst src
    let a := s.readG dst
    let b := src.value s
    let cin : Nat := if withCarry = true ∧ s.c = true then 1 else 0
    let res := BitVec.ofNat 16 (a.toNat + b.toNat + cin)
    (FlagsReadable s op.reads → src.ok s → ∃ t, exec i s = .next t ∧ t.readG dst = keptIn dst res ∧
      (t.c = true ↔ 65536 ≤ a.toNat + b.toNat + cin) ∧ (t.z = true ↔ res = 0) ∧ t.n = res.getLsbD 15 ∧
      (t.v = true ↔ a.toInt + b.toInt + cin < -32768 ∨ 32767 < a.toInt + b.toInt + cin) ∧
      t.trashed = ⟨false, false, false, false⟩ ∧ Frame (· = dst) s t ∧ NoStore s t ∧ t.pc = s.pc + src.len ∧
      t.draws = src.draws s) ∧
    (¬ FlagsReadable s op.reads → exec i s = .refused .trashedFlag) ∧
    ∀ why, FlagsReadable s op.reads → src.stop s = some why → exec i s = .refused why

/-- SUB and SBC in their four modes complete where the operand is readable and give the 16-bit difference, with C = 1 exactly
when there is no borrow, Z and N from the difference and V exactly when the signed difference does not fit; where the read of a
memory operand is refused, so is the instruction, and so is SBC where the configuration refuses its read of C (R30, R44, R52,
R56, R170, R171, R174 to R176; decisions D2, D16, D17, D24, logs 18, 25, 38, 47, 49). -/
def Obligations.SubAndSbc : Prop :=
  ∀ (s : State) (dst : Gpr) (src : Src) (withBorrow : Bool),
    let op : AluOp := if withBorrow then .sbc else .sub
    let i := AluOp.instr op dst src
    let a := s.readG dst
    let b := src.value s
    let borrow : Nat := if withBorrow = true ∧ s.c = false then 1 else 0
    let res := a - b - BitVec.ofNat 16 borrow
    (FlagsReadable s op.reads → src.ok s → ∃ t, exec i s = .next t ∧ t.readG dst = keptIn dst res ∧
      (t.c = true ↔ b.toNat + borrow ≤ a.toNat) ∧ (t.z = true ↔ res = 0) ∧ t.n = res.getLsbD 15 ∧
      (t.v = true ↔ a.toInt - b.toInt - borrow < -32768 ∨ 32767 < a.toInt - b.toInt - borrow) ∧
      t.trashed = ⟨false, false, false, false⟩ ∧ Frame (· = dst) s t ∧ NoStore s t ∧ t.pc = s.pc + src.len ∧
      t.draws = src.draws s) ∧
    (¬ FlagsReadable s op.reads → exec i s = .refused .trashedFlag) ∧
    ∀ why, FlagsReadable s op.reads → src.stop s = some why → exec i s = .refused why

/-- CMP in its four modes completes where the operand is readable, writes no register, and leaves flags on which the eight
conditions are the eight comparisons of its operands; where the read of a memory operand is refused, so is the instruction (R52,
R56, R230, R231; decisions D2, D16, logs 18, 25, 38). -/
def Obligations.CompareConditions : Prop :=
  ∀ (s : State) (dst : Gpr) (src : Src),
    let a := s.readG dst
    let b := src.value s
    (src.ok s → ∃ t, exec (AluOp.instr .cmp dst src) s = .next t ∧
      (holds t (some .eq) ↔ a = b) ∧ (holds t (some .ne) ↔ a ≠ b) ∧
      (holds t (some .cs) ↔ b.toNat ≤ a.toNat) ∧ (holds t (some .cc) ↔ a.toNat < b.toNat) ∧
      (holds t (some .lt) ↔ a.toInt < b.toInt) ∧ (holds t (some .gt) ↔ b.toInt < a.toInt) ∧
      (holds t (some .ge) ↔ b.toInt ≤ a.toInt) ∧ (holds t (some .le) ↔ a.toInt ≤ b.toInt) ∧
      t.n = (a - b).getLsbD 15 ∧ t.trashed = ⟨false, false, false, false⟩ ∧
      Frame noReg s t ∧ NoStore s t ∧ t.pc = s.pc + src.len ∧ t.draws = src.draws s) ∧
    ∀ why, src.stop s = some why → exec (AluOp.instr .cmp dst src) s = .refused why

/-- AND, OR and XOR in their four modes complete where the operand is readable and give the bitwise result; C is cleared, Z and
N follow the result, V is kept; where the read of a memory operand is refused, so is the instruction (R52, R56, R190 to R193;
decisions D2, D17, logs 18, 25, 38). -/
def Obligations.LogicOps : Prop :=
  ∀ (s : State) (dst : Gpr) (src : Src) (op : AluOp) (f : Bool → Bool → Bool),
    (op = .and ∧ f = and) ∨ (op = .or ∧ f = or) ∨ (op = .xor ∧ f = xor) →
    (src.ok s → ∃ (t : State) (res : Word), exec (AluOp.instr op dst src) s = .next t ∧
      (∀ k < 16, res.getLsbD k = f ((s.readG dst).getLsbD k) ((src.value s).getLsbD k)) ∧
      t.readG dst = keptIn dst res ∧ t.c = false ∧ (t.z = true ↔ res = 0) ∧ t.n = res.getLsbD 15 ∧ t.v = s.v ∧
      t.trashed = ⟨false, false, false, s.trashed.v⟩ ∧
      Frame (· = dst) s t ∧ NoStore s t ∧ t.pc = s.pc + src.len ∧ t.draws = src.draws s) ∧
    ∀ why, src.stop s = some why → exec (AluOp.instr op dst src) s = .refused why

/-- NOT of a register, of memory where it is readable, and in place completes and complements every bit of the 16-bit operand,
with the flags of the logical group; where the read of a memory operand is refused, so is the instruction (R52, R56, R190, R194
to R196; decisions D2, D17, logs 18, 25, 38). -/
def Obligations.NotForms : Prop :=
  ∀ (s : State) (dst : Gpr) (src : NotSrc),
    (src.ok s → ∃ (t : State) (res : Word), exec (notOf dst src) s = .next t ∧
      (∀ k < 16, res.getLsbD k = !(src.value s dst).getLsbD k) ∧
      t.readG dst = keptIn dst res ∧ t.c = false ∧ (t.z = true ↔ res = 0) ∧ t.n = res.getLsbD 15 ∧ t.v = s.v ∧
      t.trashed = ⟨false, false, false, s.trashed.v⟩ ∧
      Frame (· = dst) s t ∧ NoStore s t ∧ t.pc = s.pc + 2 ∧ t.draws = src.draws s) ∧
    ∀ why, src.stop s = some why → exec (notOf dst src) s = .refused why

/-- INC and DEC of an XY pair complete, add or subtract the unsigned IMM5 modulo 2^24 and leave each flag a free value (R44,
R180, R181; decisions D4, D24, logs 11, 20). The statement holds for every value that the free flags take. -/
def Obligations.IncDecPair : Prop :=
  ∀ (s : State) (n : Idx) (i : Imm5),
    (∃ t, exec (.incXY n i) s = .next t ∧ (t.xy n).toNat = ((s.xy n).toNat + i.toNat) % 2 ^ 24 ∧
      FlagsDrawn s.draws t ∧ Frame (pairRegs n) s t ∧ NoStore s t ∧ t.pc = s.pc + 2 ∧ t.draws = s.draws + 4) ∧
    (∃ t, exec (.decXY n i) s = .next t ∧
      ((t.xy n).toNat : Int) = (((s.xy n).toNat : Int) - i.toNat) % 2 ^ 24 ∧
      FlagsDrawn s.draws t ∧ Frame (pairRegs n) s t ∧ NoStore s t ∧ t.pc = s.pc + 2 ∧ t.draws = s.draws + 4)

/-- LEA in its four modes completes, writes the effective address to the pair, reads no data memory and leaves each flag a
free value (R160 to R165; decisions D3 to D5, D7, D35, logs 12, 19 to 21). -/
def Obligations.LoadEffectiveAddress : Prop :=
  ∀ (s : State) (n : Idx) (src : LeaSrc),
    ∃ t, exec (leaOf n src) s = .next t ∧ t.xy n = src.addr s ∧ FlagsDrawn s.draws t ∧
      Frame (pairRegs n) s t ∧ NoStore s t ∧ t.pc = s.pc + src.len ∧ t.draws = s.draws + 4

/-! ## Table lookup -/

/-- The shifts and byte operations of LOOKUP: their words for Dn are the words for D0 plus n, and each completes with its
function of Dn in Dn and no flag (nor a mark of the model's own, log 49), other register or byte of memory
changed (R204 to R207, R210 to R212, R215, R217). -/
def Obligations.LookupShifts : Prop :=
  ∀ (s : State) (n : Idx),
    let v := s.readG (.d n)
    let does (base : Word) (i : Instr) (w : Word) : Prop :=
      decode (wordBytes (base + n.bits.setWidth 16)) = .ok (i, []) ∧
        ∃ t, exec i s = .next t ∧ t.readG (.d n) = w ∧ Frame (· = .d n) s t ∧ FlagsKept s t ∧ NoStore s t ∧
          t.pc = s.pc + 2 ∧ t.draws = s.draws
    does 0x0C00 (.shl4 n) (v <<< 4) ∧ does 0x0E00 (.shr4 n) (v >>> 4) ∧ does 0x0810 (.asr4 n) (v.sshiftRight 4) ∧
      does 0x0A10 (.asr8 n) (v.sshiftRight 8) ∧ does 0x0820 (.shl n) (v <<< 1) ∧ does 0x0A20 (.shr n) (v >>> 1) ∧
      does 0x0C20 (.asr n) (v.sshiftRight 1) ∧ does 0x0A30 (.swapb n) (v <<< 8 ||| v >>> 8) ∧
      does 0x0E30 (.low n) (v &&& 0x00FF)

/-- HIGH, MULB, ROL, ROR and RECIP complete with their function of Dn, no flag changed: MULB multiplies unsigned bytes, ROL and
ROR bring C in and lose the bit that leaves, RECIP is the floor of 65536 over an unsigned Dn of 2 or more (R208, R209, R213,
R214, R216; decisions D22, D23, logs 14 to 16). RECIP of 0 and of 1 are the free values RECIP0 and RECIP1. ROL and ROR are
refused where the configuration refuses their read of C (R30, R44, decision D24, logs 47, 49). -/
def Obligations.LookupRotatesAndProducts : Prop :=
  ∀ (s : State) (n : Idx),
    let v := s.readG (.d n)
    let cbit : Word := if s.c = true then 1 else 0
    let does (i : Instr) (P : Word → Prop) : Prop :=
      ∃ t, exec i s = .next t ∧ P (t.readG (.d n)) ∧ Frame (· = .d n) s t ∧ FlagsKept s t ∧ NoStore s t ∧
        t.pc = s.pc + 2 ∧ t.draws = s.draws
    does (.high n) (· = v >>> 8) ∧ does (.mulb n) (fun w => w.toNat = (v.toNat / 256) * (v.toNat % 256)) ∧
      (FlagsReadable s ⟨true, false, false, false⟩ →
        does (.rol n) (· = v <<< 1 ||| cbit) ∧ does (.ror n) (· = v >>> 1 ||| cbit <<< 15)) ∧
      (¬ FlagsReadable s ⟨true, false, false, false⟩ →
        exec (.rol n) s = .refused .trashedFlag ∧ exec (.ror n) s = .refused .trashedFlag) ∧
      does (.recip n) fun w =>
        (2 ≤ v.toNat → w.toNat * v.toNat ≤ 65536 ∧ 65536 < (w.toNat + 1) * v.toNat) ∧
          (v.toNat = 0 → w = Config.recip0) ∧ (v.toNat = 1 → w = Config.recip1)

/-- LOOKUP of a custom page completes with the word at the table's entry, by default the byte address `page * 65536 + 2 * Dn`
where the page is twice the table number, and no flag changed; where that word's read is refused, so is the instruction (R52,
R200, R202; decision D12, logs 29, 47). -/
def Obligations.LookupCustom : Prop :=
  ∀ (s : State) (t7 : BitVec 7) (n : Idx) (a : Addr),
    let l := s.cfg.lookupAddr
    a.toNat = (l.base.toNat + 2 * t7.toNat * l.pageStride + (s.readG (.d n)).toNat * l.entryStride) % 2 ^ 24 →
    (l = Config.default.lookupAddr →
      a.toNat = 2 * t7.toNat * 65536 + 2 * (s.readG (.d n)).toNat ∧ a.toNat % 2 = 0) ∧
    (WordReadable s a →
      ∃ t, exec (.lookup t7 n) s = .next t ∧ t.readG (.d n) = wordAt s s.draws a ∧ Frame (· = .d n) s t ∧
        FlagsKept s t ∧ NoStore s t ∧ t.pc = s.pc + 2 ∧ t.draws = drawsAfter s s.draws a) ∧
    ∀ why, readStop s a = some why → exec (.lookup t7 n) s = .refused why

/-! ## Conditional set, branches, jumps, calls -/

/-- Each of the eight Scc completes and sets its register to $FFFF if its condition is true, else to the immediate; no flag
changes (R87, R233, R235; X and Y destinations are the spec's decision D10, log 23). Where the configuration refuses the read of
a flag that the condition reads, so it refuses the Scc (R44, decision D24, logs 47, 49). -/
def Obligations.ConditionalSet : Prop :=
  ∀ (s : State) (c : Cond) (dst : Gpr) (v : Word),
    (FlagsReadable s (condFlags (some c)) →
      ∃ t, exec (sccInstr c dst v) s = .next t ∧ (holds s (some c) → t.readG dst = keptIn dst 0xFFFF) ∧
        (¬ holds s (some c) → t.readG dst = keptIn dst v) ∧ Frame (· = dst) s t ∧ FlagsKept s t ∧ NoStore s t ∧
        t.pc = s.pc + 4 ∧ t.draws = s.draws) ∧
    (¬ FlagsReadable s (condFlags (some c)) → exec (sccInstr c dst v) s = .refused .trashedFlag)

/-- The eight short branches and BRA.S complete: if the condition is true, `pc` is PC, by default the following address, plus
the unsigned IMM5, else the following address; nothing else changes. Where the configuration refuses the read of a flag that the
condition reads, so it refuses the branch (R44, R87, R240, R241, R243, R245; decisions D3, D4, D6, D24, logs 19 to 21, 47,
49). -/
def Obligations.ShortBranches : Prop :=
  ∀ (s : State) (c : Option Cond) (i : Imm5),
    (FlagsReadable s (condFlags c) →
      ∃ t, exec (branchShortOf i c) s = .next t ∧
        (holds s c → t.pc.toNat = ((pcValue s 2).toNat + i.toNat) % 2 ^ 24) ∧ (¬ holds s c → t.pc = s.pc + 2) ∧
        t = { s with pc := t.pc }) ∧
    (¬ FlagsReadable s (condFlags c) → exec (branchShortOf i c) s = .refused .trashedFlag)

/-- The eight long branches and BRA.L complete: if the condition is true, `pc` is PC, by default the following address, plus the
signed offset, else the following address; nothing else changes. Where the configuration refuses the read of a flag that the
condition reads, so it refuses the branch (R44, R87, R240, R242, R244, R245; decisions D3 to D5, D24, logs 19 to 21, 47,
49). -/
def Obligations.LongBranches : Prop :=
  ∀ (s : State) (c : Option Cond) (off : Word),
    (FlagsReadable s (condFlags c) →
      ∃ t, exec (branchLongOf off c) s = .next t ∧
        (holds s c → (t.pc.toNat : Int) = (((pcValue s 4).toNat : Int) + off.toInt) % 2 ^ 24) ∧
        (¬ holds s c → t.pc = s.pc + 4) ∧ t = { s with pc := t.pc }) ∧
    (¬ FlagsReadable s (condFlags c) → exec (branchLongOf off c) s = .refused .trashedFlag)

/-- JMP24, JMP16, JMPXY and MOVE to PC complete, and JMPT does where its table word is readable: `pc` is the 24-bit address, the
offset in the bank of PC, by default the following address, the pair, or the 16-bit source or the table's word in that bank;
nothing else changes. JMPT is refused where its read is, and a MOVE from SR where the configuration refuses that read (R28, R44,
R52, R56, R134, R240, R247 to R250; decisions D3, D18, D20, D21, D24, logs 19, 26, 28, 47, 49). -/
def Obligations.Jumps : Prop :=
  ∀ (s : State) (addr : Addr) (off : Word) (n m : Idx),
    exec (.jmp24 addr) s = .next { s with pc := addr } ∧
      exec (.jmp16 off) s = .next { s with pc := mkAddr ((pcValue s 4).extractLsb' 16 8) off } ∧
      exec (.jmpxy n) s = .next { s with pc := s.xy n } ∧
      exec (.moveD .pcl n) s = .next { s with pc := mkAddr ((pcValue s 2).extractLsb' 16 8) (s.readG (.d n)) } ∧
      (∀ src : MoveSrc,
        (FlagsReadable s (moveReads src) → exec (.moveS .pcl src) s =
          .next { s with pc := mkAddr ((pcValue s 2).extractLsb' 16 8) (moveValue s src) }) ∧
        (¬ FlagsReadable s (moveReads src) → exec (.moveS .pcl src) s = .refused .trashedFlag)) ∧
      (WordReadable s (s.eaIdx n m) →
        exec (.jmpt n m) s =
          .next { s with
            pc := mkAddr ((pcValue s 2).extractLsb' 16 8) (wordAt s s.draws (s.eaIdx n m))
            draws := drawsAfter s s.draws (s.eaIdx n m) }) ∧
      ∀ why, readStop s (s.eaIdx n m) = some why → exec (.jmpt n m) s = .refused why

/-- CALL24, CALL16 and CALLR complete where the two words below XY3 are writable: the low word and then the zero-extended bank
of the return address, which is PC and so by default the following address, are pushed on XY3, `pc` is the target, no flag and
no other register changes; where a push is refused, so is the call (R52, R56, R240, R251 to R254; decisions D3, D5, D9, D21,
logs 19, 21, 22, 28, 41). -/
def Obligations.Calls : Prop :=
  ∀ (s : State) (call : Call),
    let ret := pcValue s call.len
    (WordWritable s (s.xy .i3 - 2) → WordWritable s (s.xy .i3 - 4) →
      ∃ t, exec call.instr s = .next t ∧
        StoredWords s t [(s.xy .i3 - 2, ret.extractLsb' 0 16), (s.xy .i3 - 4, (ret.extractLsb' 16 8).setWidth 16)] ∧
        t.xy .i3 = s.xy .i3 - 4 ∧ t.pc = call.target s ∧ Frame (pairRegs .i3) s t ∧ FlagsKept s t ∧
        t.draws = s.draws) ∧
    ∀ why, firstStop [writeStop s (s.xy .i3 - 2), writeStop s (s.xy .i3 - 4)] = some why →
      exec call.instr s = .refused why

/-- RET completes where the two words at XY3 are readable: the bank is the low byte of the first, the offset is the second,
XY3 moves up by four and by the unsigned IMM5; where a pop is refused, so is RET (R52, R56, R240, R255; decisions D4, D8, D9,
logs 20, 22, 41). -/
def Obligations.Return : Prop :=
  ∀ (s : State) (i : Imm5),
    (WordReadable s (s.xy .i3) → WordReadable s (s.xy .i3 + 2) →
      ∃ t, exec (.ret i) s = .next t ∧
        t.pc = mkAddr ((wordAt s s.draws (s.xy .i3)).extractLsb' 0 8)
          (wordAt s (drawsAfter s s.draws (s.xy .i3)) (s.xy .i3 + 2)) ∧
        t.xy .i3 = s.xy .i3 + 4 + i.setWidth 24 ∧ Frame (pairRegs .i3) s t ∧ FlagsKept s t ∧ NoStore s t ∧
        t.draws = drawsAfter s (drawsAfter s s.draws (s.xy .i3)) (s.xy .i3 + 2)) ∧
    ∀ why, firstStop [readStop s (s.xy .i3), readStop s (s.xy .i3 + 2)] = some why → exec (.ret i) s = .refused why

/-- A RET right after a call, with the frame in RAM, goes to the address that the call pushed, by default that of the instruction
after the call, and gives XY3 back plus the IMM5: one RET serves all three calls (R251 to R255; decisions D3, D9, logs 19,
22). -/
def Obligations.CallThenReturn : Prop :=
  ∀ (s : State) (call : Call) (i : Imm5), Aligned s (s.xy .i3) → InRam s (s.xy .i3 - 2) → InRam s (s.xy .i3 - 4) →
    ∃ t u, exec call.instr s = .next t ∧ exec (.ret i) t = .next u ∧ u.pc = pcValue s call.len ∧
      u.xy .i3 = s.xy .i3 + i.setWidth 24 ∧ Frame (pairRegs .i3) s u ∧ FlagsKept s u ∧ u.draws = s.draws

/-! ## Loads and stores -/

/-- LOADD, LOADX, LOADY in their four modes, and LOADP of any register, complete where the word at the effective address is
readable, and put that word in the register (a Y register keeps its low byte); no flag changes. Where the address is odd or
has no kind, they are refused (R52, R56, R120, R123 to R126, R129; decisions D1, D2, D16, logs 17, 18, 25, 38). -/
def Obligations.WordLoads : Prop :=
  ∀ (s : State) (dst : Gpr),
    let loads (i : Instr) (a len : Addr) : Prop :=
      (WordReadable s a → ∃ t, exec i s = .next t ∧ t.readG dst = keptIn dst (wordAt s s.draws a) ∧
        Frame (· = dst) s t ∧ FlagsKept s t ∧ NoStore s t ∧ t.pc = s.pc + len ∧ t.draws = drawsAfter s s.draws a) ∧
      ∀ why, readStop s a = some why → exec i s = .refused why
    (∀ ea : Ea, loads (loadOf dst ea) (ea.addr s) ea.len) ∧
      ∀ (n : Idx) (off : Word), loads (.loadp dst n off) (s.eaPaged n off) 4

/-- LOADB in its four modes and LOADPB of any register complete where the byte at the effective address is readable, at an even
or odd address, and put it zero-extended in the register; no flag changes. Where the address has no kind, they are refused (R52,
R59, R120, R126, R127, R130; decision D19, logs 27, 38). -/
def Obligations.ByteLoads : Prop :=
  ∀ s : State,
    let loads (dst : Gpr) (i : Instr) (a len : Addr) : Prop :=
      (ByteReadable s a → ∃ t, exec i s = .next t ∧ t.readG dst = (byteAt s s.draws a).setWidth 16 ∧
        Frame (· = dst) s t ∧ FlagsKept s t ∧ NoStore s t ∧ t.pc = s.pc + len ∧ t.draws = byteDrawsAfter s s.draws a) ∧
      ∀ why, byteReadStop s a = some why → exec i s = .refused why
    (∀ (r : Idx) (ea : Ea), loads (.d r) (loadbOf r ea) (ea.addr s) ea.len) ∧
      ∀ (dst : Gpr) (n : Idx) (off : Word), loads dst (.loadpb dst n off) (s.eaPaged n off) 4

/-- LOADI of a 5-bit immediate, zero-extended, and of a 16-bit immediate complete into any register (a Y register keeps the low
byte); no flag changes (R120 to R122; decision D16, log 25). -/
def Obligations.LoadImmediate : Prop :=
  ∀ (s : State) (dst : Gpr) (i : Imm5) (v : Word),
    (∃ t, exec (.loadiImm5 dst i) s = .next t ∧ (t.readG dst).toNat = i.toNat ∧ Frame (· = dst) s t ∧
      FlagsKept s t ∧ NoStore s t ∧ t.pc = s.pc + 2 ∧ t.draws = s.draws) ∧
    (∃ t, exec (.loadiImm16 dst v) s = .next t ∧ t.readG dst = keptIn dst v ∧ Frame (· = dst) s t ∧
      FlagsKept s t ∧ NoStore s t ∧ t.pc = s.pc + 4 ∧ t.draws = s.draws)

/-- LOADXY completes where both words at the base pair are readable: Y gets the low byte of the first, X the second, both read
at the old base pair; where a read is refused, so is LOADXY (R52, R56, R58, R65, R120, R128; decisions D2, D32, logs 18, 33). -/
def Obligations.LoadPair : Prop :=
  ∀ (s : State) (n m : Idx),
    (WordReadable s (s.xy m) → WordReadable s (s.xy m + 2) →
      ∃ t, exec (.loadxy n m) s = .next t ∧
        t.xy n = mkAddr ((wordAt s s.draws (s.xy m)).extractLsb' 0 8)
          (wordAt s (drawsAfter s s.draws (s.xy m)) (s.xy m + 2)) ∧
        Frame (pairRegs n) s t ∧ FlagsKept s t ∧ NoStore s t ∧ t.pc = s.pc + 2 ∧
        t.draws = drawsAfter s (drawsAfter s s.draws (s.xy m)) (s.xy m + 2)) ∧
    ∀ why, firstStop [readStop s (s.xy m), readStop s (s.xy m + 2)] = some why → exec (.loadxy n m) s = .refused why

/-- STORED, STOREX, STOREY in their four modes, and STOREP of any register, complete where the word at the effective address
is writable, and store the register there, a Y register zero-extended; no other byte, register or flag changes. Where the
address is odd, is ROM or has no kind, they are refused (R52, R56, R120, R126, R131 to R133, R139; decisions D1, D2, D33, logs
17, 18, 38). -/
def Obligations.WordStores : Prop :=
  ∀ (s : State) (src : Gpr),
    let stores (i : Instr) (a len : Addr) : Prop :=
      (WordWritable s a → ∃ t, exec i s = .next t ∧ StoredWords s t [(a, s.readG src)] ∧ Frame noReg s t ∧
        FlagsKept s t ∧ t.pc = s.pc + len ∧ t.draws = s.draws) ∧
      ∀ why, writeStop s a = some why → exec i s = .refused why
    (∀ ea : Ea, stores (storeOf src ea) (ea.addr s) ea.len) ∧
      ∀ (n : Idx) (off : Word), stores (.storep src n off) (s.eaPaged n off) 4

/-- STOREB in its four modes and STOREPB of any register complete where the byte at the effective address is writable, and store
the low byte of the register there; no other byte, register or flag changes. Where the address is ROM or has no kind, they are
refused (R52, R59, R120, R126, R135, R140; decisions D19, D33, logs 27, 38). -/
def Obligations.ByteStores : Prop :=
  ∀ s : State,
    let stores (src : Gpr) (i : Instr) (a len : Addr) : Prop :=
      (ByteWritable s a → ∃ t, exec i s = .next t ∧ StoredByte s t a ((s.readG src).extractLsb' 0 8) ∧ Frame noReg s t ∧
        FlagsKept s t ∧ t.pc = s.pc + len ∧ t.draws = s.draws) ∧
      ∀ why, byteWriteStop s a = some why → exec i s = .refused why
    (∀ (r : Idx) (ea : Ea), stores (.d r) (storebOf r ea) (ea.addr s) ea.len) ∧
      ∀ (src : Gpr) (n : Idx) (off : Word), stores src (.storepb src n off) (s.eaPaged n off) 4

/-- STOREI of a 5-bit immediate, zero-extended to a word, and of a 16-bit immediate complete where the word at the pair is
writable; no other byte and no register or flag changes. Where that store is refused, so are they (R52, R56, R120, R136, R137;
decisions D1, D2, D33, logs 17, 18, 38). -/
def Obligations.StoreImmediate : Prop :=
  ∀ (s : State) (n : Idx) (i : Imm5) (v : Word),
    let stores (j : Instr) (w : Word) (len : Addr) : Prop :=
      (WordWritable s (s.xy n) → ∃ t, exec j s = .next t ∧ StoredWords s t [(s.xy n, w)] ∧ Frame noReg s t ∧
        FlagsKept s t ∧ t.pc = s.pc + len ∧ t.draws = s.draws) ∧
      ∀ why, writeStop s (s.xy n) = some why → exec j s = .refused why
    stores (.storeiImm5 i n) (i.setWidth 16) 2 ∧ stores (.storeiImm16 v n) v 4

/-- STOREXY completes where both words at the base pair are writable: the zero-extended Y half, then the X half two bytes on;
where a store is refused, so is STOREXY (R52, R56, R58, R120, R138; decisions D2, D32, D33, logs 18, 33, 38). -/
def Obligations.StorePair : Prop :=
  ∀ (s : State) (n m : Idx),
    (WordWritable s (s.xy m) → WordWritable s (s.xy m + 2) →
      ∃ t, exec (.storexy n m) s = .next t ∧
        StoredWords s t [(s.xy m, s.readG (.y n)), (s.xy m + 2, s.readG (.x n))] ∧ Frame noReg s t ∧ FlagsKept s t ∧
        t.pc = s.pc + 2 ∧ t.draws = s.draws) ∧
    ∀ why, firstStop [writeStop s (s.xy m), writeStop s (s.xy m + 2)] = some why → exec (.storexy n m) s = .refused why

/-! ## Moves -/

/-- MOVE to a general register from every source completes with the 16-bit source value, a Y register keeping its low byte; SR and
PCH are zero-extended, PCH and PCL are of PC, by default the following address; no flag changes. A MOVE from SR is refused where
the configuration refuses that read (R26 to R28, R44, R120, R141, R142; decisions D3, D16, D24, logs 19, 25, 47, 49). -/
def Obligations.MoveToRegister : Prop :=
  ∀ (s : State) (dst : Gpr),
    let moves (i : Instr) (v : Word) : Prop :=
      ∃ t, exec i s = .next t ∧ t.readG dst = keptIn dst v ∧ Frame (· = dst) s t ∧ FlagsKept s t ∧ NoStore s t ∧
        t.pc = s.pc + 2 ∧ t.draws = s.draws
    (∀ n : Idx, moves (.moveD (.gpr dst) n) (s.readG (.d n))) ∧
      ∀ src : MoveSrc,
        (FlagsReadable s (moveReads src) → moves (.moveS (.gpr dst) src) (moveValue s src)) ∧
        (¬ FlagsReadable s (moveReads src) → exec (.moveS (.gpr dst) src) s = .refused .trashedFlag)

/-- MOVE from SR gives IE, LVL as sampled, V, N, Z, C in bits 7 to 0 with zeros above; MOVE to SR from every source writes V, N, Z,
C from bits 3 to 0 of the source's value and nothing else but `pc`, and leaves no flag undefined (log 49); a MOVE from SR is
refused where the configuration refuses that read (R44, decision D24, log 47); the word 29A0 of `MOVE SR, D0` (R143) and 2A0D of
`MOVE D0, SR` (R142). That a Y register, SR and PCH are zero-extended, and that PCH and PCL are of the following address, are
the spec's decisions D16 and D3 (logs 25, 19). LVL of the lines is the statement LevelOfLines. -/
def Obligations.StatusRegisterMoves : Prop :=
  ∀ (s : State) (n : Idx),
    (FlagsReadable s ⟨true, true, true, true⟩ → ∃ t, exec (.moveS (.gpr (.d n)) .sr) s = .next t ∧
      t = { s with
        d := s.d.set n ((BitVec.ofBool s.ie ++ levelOf s.irqNow ++ BitVec.ofBool s.v ++ BitVec.ofBool s.n ++
          BitVec.ofBool s.z ++ BitVec.ofBool s.c).setWidth 16)
        pc := s.pc + 2 }) ∧
    (∃ t, exec (.moveD .sr n) s = .next t ∧
      t = { s with
        v := (s.readG (.d n)).getLsbD 3
        n := (s.readG (.d n)).getLsbD 2
        z := (s.readG (.d n)).getLsbD 1
        c := (s.readG (.d n)).getLsbD 0
        trashed := ⟨false, false, false, false⟩
        pc := s.pc + 2 }) ∧
    (∀ src : MoveSrc, FlagsReadable s (moveReads src) → ∃ t, exec (.moveS .sr src) s = .next t ∧
      t = { s with
        v := (moveValue s src).getLsbD 3
        n := (moveValue s src).getLsbD 2
        z := (moveValue s src).getLsbD 1
        c := (moveValue s src).getLsbD 0
        trashed := ⟨false, false, false, false⟩
        pc := s.pc + 2 }) ∧
    (∀ dst : MoveDst, ¬ FlagsReadable s ⟨true, true, true, true⟩ → exec (.moveS dst .sr) s = .refused .trashedFlag) ∧
    decode [0x2A, 0x0D] = .ok (.moveS (.gpr (.d .i0)) .sr, []) ∧ decode [0x29, 0xA0] = .ok (.moveD .sr .i0, [])

/-- LVL is 7 minus the number of the highest asserted line, and 7 when no line is asserted (R35, R312; that IRQ7 is highest and
that no line reads as 7 are the spec's G1 and D34, log 10). -/
def Obligations.LevelOfLines : Prop :=
  ∀ lines : Byte,
    (lines = 0 → levelOf lines = 7) ∧
      ∀ k : Nat, k < 8 → lines.getLsbD k = true → (∀ j, k < j → lines.getLsbD j = false) →
        (levelOf lines).toNat = 7 - k

/-- SWAP completes and exchanges the two registers, each taking what it can hold of the other's 16-bit value; a register swapped
with itself stays as it was (R120, R144, R145; decision D16, log 25). -/
def Obligations.SwapRegisters : Prop :=
  ∀ s : State,
    let swaps (i : Instr) (g h : Gpr) : Prop :=
      ∃ t, exec i s = .next t ∧ t.readG g = keptIn g (s.readG h) ∧ t.readG h = keptIn h (s.readG g) ∧
        Frame (fun r => r = g ∨ r = h) s t ∧ FlagsKept s t ∧ NoStore s t ∧ t.pc = s.pc + 2 ∧ t.draws = s.draws
    (∀ (n : Idx) (r : XYReg), swaps (.swapD n r) (.d n) (xyGpr r)) ∧
      ∀ a b : XYReg, swaps (.swapXY a b) (xyGpr a) (xyGpr b)

/-! ## Stacks -/

/-- PUSH of a register or SR that is no half of the stack pair, and of a 5-bit or 16-bit immediate, on any pair, completes where the
word below the pointer is writable: the pair goes down by two and the word is stored there; no flag changes. Where that store is
refused, so is the PUSH, and a PUSH of SR where the configuration refuses that read (R14, R44, R52, R56, R270 to R272, R274, R276,
R280, R281; decisions D2, D8, D13, D24, logs 18, 22, 23, 41, 47, 49). -/
def Obligations.PushWord : Prop :=
  ∀ (s : State) (p : Idx) (src : PushSrc), src.ok p →
    (FlagsReadable s src.reads → WordWritable s (s.xy p - 2) →
      ∃ t, exec (pushOf p src) s = .next t ∧ StoredWords s t [(s.xy p - 2, src.value s)] ∧ t.xy p = s.xy p - 2 ∧
        Frame (pairRegs p) s t ∧ FlagsKept s t ∧ t.pc = s.pc + src.len ∧ t.draws = s.draws) ∧
    (¬ FlagsReadable s src.reads → exec (pushOf p src) s = .refused .trashedFlag) ∧
    ∀ why, FlagsReadable s src.reads → writeStop s (s.xy p - 2) = some why → exec (pushOf p src) s = .refused why

/-- PUSH of the D group stores D0 to D3 at falling addresses, and PUSH of a pair that is not the stack pair stores X and then the
zero-extended Y, where those words are writable; no flag changes. Where one of the stores is refused, so is the PUSH (R52, R56,
R270, R272, R273, R275; decisions D2, D8, D9, logs 18, 22, 41). -/
def Obligations.PushGroups : Prop :=
  ∀ (s : State) (n p : Idx),
    let a := s.xy p
    (WordWritable s (a - 2) → WordWritable s (a - 4) → WordWritable s (a - 6) → WordWritable s (a - 8) →
      ∃ t, exec (.pushD p) s = .next t ∧
        StoredWords s t [(a - 2, s.readG (.d .i0)), (a - 4, s.readG (.d .i1)), (a - 6, s.readG (.d .i2)),
          (a - 8, s.readG (.d .i3))] ∧
        t.xy p = a - 8 ∧ Frame (pairRegs p) s t ∧ FlagsKept s t ∧ t.pc = s.pc + 2 ∧ t.draws = s.draws) ∧
    (∀ why, firstStop [writeStop s (a - 2), writeStop s (a - 4), writeStop s (a - 6), writeStop s (a - 8)] = some why →
      exec (.pushD p) s = .refused why) ∧
    (n ≠ p →
      (WordWritable s (a - 2) → WordWritable s (a - 4) →
        ∃ t, exec (.pushXY n p) s = .next t ∧
          StoredWords s t [(a - 2, s.readG (.x n)), (a - 4, s.readG (.y n))] ∧
          t.xy p = a - 4 ∧ Frame (pairRegs p) s t ∧ FlagsKept s t ∧ t.pc = s.pc + 2 ∧ t.draws = s.draws) ∧
      ∀ why, firstStop [writeStop s (a - 2), writeStop s (a - 4)] = some why → exec (.pushXY n p) s = .refused why)

/-- POP of a register that is no half of the stack pair, and of SR, completes where the word at the pointer is readable: the pair
goes up by two; a register takes the word and no flag changes; SR takes V, N, Z, C from bits 3 to 0 and IE stays. Where that read
is refused, so is the POP (R52, R56, R270 to R272, R278, R281; decisions D2, D8, logs 18, 22, 41). -/
def Obligations.PopWord : Prop :=
  ∀ (s : State) (p : Idx),
    let w := wordAt s s.draws (s.xy p)
    (WordReadable s (s.xy p) →
      (∀ g : Gpr, halfOf (.gpr g) p = false →
        ∃ t, exec (.popReg (.gpr g) p) s = .next t ∧ t.readG g = keptIn g w ∧ t.xy p = s.xy p + 2 ∧
          Frame (fun r => r = g ∨ pairRegs p r) s t ∧ FlagsKept s t ∧ NoStore s t ∧ t.pc = s.pc + 2 ∧
          t.draws = drawsAfter s s.draws (s.xy p)) ∧
      ∃ t, exec (.popReg .sr p) s = .next t ∧ t.v = w.getLsbD 3 ∧ t.n = w.getLsbD 2 ∧ t.z = w.getLsbD 1 ∧
        t.c = w.getLsbD 0 ∧ t.trashed = ⟨false, false, false, false⟩ ∧ t.xy p = s.xy p + 2 ∧ Frame (pairRegs p) s t ∧
        NoStore s t ∧ t.pc = s.pc + 2 ∧ t.draws = drawsAfter s s.draws (s.xy p)) ∧
    ∀ (r : StackReg) (why : Refusal), halfOf r p = false → readStop s (s.xy p) = some why →
      exec (.popReg r p) s = .refused why

/-- POP of the D group reads D3 first and D0 last, and POP of a pair that is not the stack pair reads Y and then X, at rising
addresses, where those words are readable; no flag changes. Where one of the reads is refused, so is the POP (R52, R56, R270,
R272, R277, R279; decisions D2, D8, D9, logs 18, 22, 41). -/
def Obligations.PopGroups : Prop :=
  ∀ (s : State) (n p : Idx),
    let a := s.xy p
    let k1 := drawsAfter s s.draws a
    let k2 := drawsAfter s k1 (a + 2)
    let k3 := drawsAfter s k2 (a + 4)
    (WordReadable s a → WordReadable s (a + 2) → WordReadable s (a + 4) → WordReadable s (a + 6) →
      ∃ t, exec (.popD p) s = .next t ∧ t.readG (.d .i3) = wordAt s s.draws a ∧
        t.readG (.d .i2) = wordAt s k1 (a + 2) ∧ t.readG (.d .i1) = wordAt s k2 (a + 4) ∧
        t.readG (.d .i0) = wordAt s k3 (a + 6) ∧ t.xy p = a + 8 ∧
        Frame (fun r => (∃ i, r = .d i) ∨ pairRegs p r) s t ∧ FlagsKept s t ∧ NoStore s t ∧ t.pc = s.pc + 2 ∧
        t.draws = drawsAfter s k3 (a + 6)) ∧
    (∀ why, firstStop [readStop s a, readStop s (a + 2), readStop s (a + 4), readStop s (a + 6)] = some why →
      exec (.popD p) s = .refused why) ∧
    (n ≠ p →
      (WordReadable s a → WordReadable s (a + 2) →
        ∃ t, exec (.popXY n p) s = .next t ∧
          t.xy n = mkAddr ((wordAt s s.draws a).extractLsb' 0 8) (wordAt s k1 (a + 2)) ∧ t.xy p = a + 4 ∧
          Frame (fun r => pairRegs n r ∨ pairRegs p r) s t ∧ FlagsKept s t ∧ NoStore s t ∧ t.pc = s.pc + 2 ∧
          t.draws = k2) ∧
      ∀ why, firstStop [readStop s a, readStop s (a + 2)] = some why → exec (.popXY n p) s = .refused why)

/-- PUSH and POP of a half of the stack pair, and of the stack pair itself, are refused (R283; decision D37, log 34). -/
def Obligations.SelfStackRefused : Prop :=
  ∀ (s : State) (p : Idx),
    (∀ r : StackReg, r = .gpr (.x p) ∨ r = .gpr (.y p) →
      exec (.pushReg r p) s = .refused .selfStack ∧ exec (.popReg r p) s = .refused .selfStack) ∧
    exec (.pushXY p p) s = .refused .selfStack ∧ exec (.popXY p p) s = .refused .selfStack

/-- POP D right after PUSH D on the same pair, with the four words in RAM, gives every register and the pointer back: only memory and
`pc` have changed (R270, R273, R277; decision D8, log 22). -/
def Obligations.PushPopGroupRoundTrip : Prop :=
  ∀ (s : State) (p : Idx), Aligned s (s.xy p) → InRam s (s.xy p - 2) → InRam s (s.xy p - 4) → InRam s (s.xy p - 6) →
    InRam s (s.xy p - 8) →
    ∃ t u, exec (.pushD p) s = .next t ∧ exec (.popD p) t = .next u ∧ u = { s with mem := t.mem, pc := s.pc + 4 }

/-! ## Control -/

/-- NOP is the word 0000 and takes 2 cycles; it moves `pc` on by two and changes nothing else; a word of opcode 0 and mode 00 with
another operand field is no instruction (R292). -/
def Obligations.NopRule : Prop :=
  decode [0x00, 0x00] = .ok (.nop, []) ∧ encode .nop = [0x00, 0x00] ∧ cycles .nop = 2 ∧
    (∀ s : State, exec .nop s = .next { s with pc := s.pc + 2 }) ∧
    ∀ (iw : Word) (rest : List Byte), fOp iw = 0 → fMode iw = 0 → fOperand iw ≠ 0 →
      decode (wordBytes iw ++ rest) = .error .mustBeZero

/-- DINT is the word F800 and takes 2 cycles; it clears IE, moves `pc` on by two and changes nothing else; and while IE is 0, no
interrupt is accepted: a step runs the next instruction, whatever the lines are (R293). -/
def Obligations.DintRule : Prop :=
  encode .dint = [0xF8, 0x00] ∧ decode [0xF8, 0x00] = .ok (.dint, []) ∧ cycles .dint = 2 ∧
    (∀ s : State, exec .dint s = .next { s with ie := false, pc := s.pc + 2 }) ∧
    ∀ (s : State) (bs rest : List Byte) (t : State) (i : Instr),
      s.ie = false → s.halted = false → fetch s = .next (bs, t) →
      decode (canonBytes s.cfg bs) = .ok (i, rest) → step s = endStep (exec i t)

/-- EINT sets IE and HALT #n halts with the code n; both move `pc` on by two and change nothing else (R291, R294; decision D30, log
32). -/
def Obligations.EintAndHalt : Prop :=
  ∀ (s : State) (n : Byte),
    exec .eint s = .next { s with ie := true, pc := s.pc + 2 } ∧
      exec (.halt n) s = .next { s with halted := true, haltCode := n, pc := s.pc + 2 }

/-- RTI completes where the three words at XY3 are readable and the popped low word of the address is even: V, N, Z, C and IE (if
the configuration restores it, log 47) come from bits 3 to 0 and 7 of the first, `pc` from the low byte of the second and from
the third, XY3 goes up by six; nothing else changes. Where a pop is refused, so is RTI, and where the popped low word is odd, it
is refused (R52, R56, R296, R318; decisions D2, D26, D28, logs 18, 30, 35). -/
def Obligations.ReturnFromInterrupt : Prop :=
  ∀ s : State,
    let a := s.xy .i3
    let k1 := drawsAfter s s.draws a
    let k2 := drawsAfter s k1 (a + 2)
    let sr := wordAt s s.draws a
    let lo := wordAt s k2 (a + 4)
    (WordReadable s a → WordReadable s (a + 2) → WordReadable s (a + 4) →
      (lo.getLsbD 0 = false ∨ s.cfg.misaligned = .ignoreBit0 →
        ∃ t, exec .rti s = .next t ∧ t.v = sr.getLsbD 3 ∧ t.n = sr.getLsbD 2 ∧ t.z = sr.getLsbD 1 ∧ t.c = sr.getLsbD 0 ∧
          t.trashed = ⟨false, false, false, false⟩ ∧
          t.ie = (if s.cfg.intEntry.restoreIe = true then sr.getLsbD 7 else s.ie) ∧
          t.pc = mkAddr ((wordAt s k1 (a + 2)).extractLsb' 0 8) lo ∧ t.xy .i3 = a + 6 ∧ RegsKept (pairRegs .i3) s t ∧
          NoStore s t ∧ t.halted = s.halted ∧ t.haltCode = s.haltCode ∧ t.irq = s.irq ∧
          t.draws = drawsAfter s k2 (a + 4) ∧ t.cfg = s.cfg) ∧
      (lo.getLsbD 0 = true → s.cfg.misaligned = .refuse → exec .rti s = .refused .oddPc)) ∧
    ∀ why, firstStop [readStop s a, readStop s (a + 2), readStop s (a + 4)] = some why → exec .rti s = .refused why

/-- An RTI right after an interrupt entry, with the frame in RAM, the vector readable and `pc` one that can be fetched at, resumes
the interrupted program: every register, flag and IE are back and `pc` is where it was; only memory and the count of free values
have changed, and no flag is left undefined any more (R314, R317, R318; decisions D26, D28, logs 30, 49). The configuration is one
that restores IE, or does not clear it, and that does not refuse the entry's read of SR. -/
def Obligations.InterruptThenReturn : Prop :=
  ∀ s : State, Aligned s s.pc → Aligned s (s.xy .i3) → InRam s (s.xy .i3 - 2) → InRam s (s.xy .i3 - 4) →
    InRam s (s.xy .i3 - 6) → WordReadable s s.cfg.vectorBase → WordReadable s (s.cfg.vectorBase + 2) →
    (s.cfg.intEntry.restoreIe = true ∨ s.cfg.intEntry.clearIe = false) → FlagsReadable s ⟨true, true, true, true⟩ →
    ∃ t u, interruptEntry s.pc s = .next t ∧ exec .rti t = .next u ∧
      u = { s with mem := t.mem, draws := t.draws, trashed := ⟨false, false, false, false⟩ }
end

