-- ==== Sys2Proof/Laws/Encoding.lean ====
section
/-!
SUPPORT. The fields of the words that the encoder writes, and the codes of registers and conditions read back.
-/

namespace Sys2Proof

/-! ### The fields of an instruction word written from its parts (R82) -/

theorem getLsbD_iword (op : BitVec 5) (mode : BitVec 2) (r : BitVec 4) (low : BitVec 5) (i : Nat) :
    (iword op mode r low).getLsbD i =
      if i < 5 then low.getLsbD i
      else if i - 5 < 4 then r.getLsbD (i - 5)
      else if i - 5 - 4 < 2 then mode.getLsbD (i - 5 - 4)
      else op.getLsbD (i - 5 - 4 - 2) := by
  have h : (iword op mode r low).getLsbD i = (op ++ mode ++ r ++ low).getLsbD i := rfl
  rw [h]
  simp only [BitVec.getLsbD_append]

@[simp] theorem fOp_iword (op : BitVec 5) (mode : BitVec 2) (r : BitVec 4) (low : BitVec 5) :
    fOp (iword op mode r low) = op := by
  apply BitVec.eq_of_getLsbD_eq
  intro i hi
  simp only [fOp, BitVec.getLsbD_extractLsb', getLsbD_iword, hi, decide_true, Bool.true_and]
  interval_cases i <;> rfl

@[simp] theorem fMode_iword (op : BitVec 5) (mode : BitVec 2) (r : BitVec 4) (low : BitVec 5) :
    fMode (iword op mode r low) = mode := by
  apply BitVec.eq_of_getLsbD_eq
  intro i hi
  simp only [fMode, BitVec.getLsbD_extractLsb', getLsbD_iword, hi, decide_true, Bool.true_and]
  interval_cases i <;> rfl

@[simp] theorem fR_iword (op : BitVec 5) (mode : BitVec 2) (r : BitVec 4) (low : BitVec 5) :
    fR (iword op mode r low) = r := by
  apply BitVec.eq_of_getLsbD_eq
  intro i hi
  simp only [fR, BitVec.getLsbD_extractLsb', getLsbD_iword, hi, decide_true, Bool.true_and]
  interval_cases i <;> rfl

@[simp] theorem fI_iword (op : BitVec 5) (mode : BitVec 2) (r : BitVec 4) (low : BitVec 5) :
    fI (iword op mode r low) = low := by
  apply BitVec.eq_of_getLsbD_eq
  intro i hi
  simp only [fI, BitVec.getLsbD_extractLsb', getLsbD_iword, hi, decide_true, Bool.true_and]
  interval_cases i <;> rfl

@[simp] theorem fA_iword (op : BitVec 5) (mode : BitVec 2) (r : BitVec 4) (low : BitVec 5) :
    fA (iword op mode r low) = r.extractLsb' 2 2 := by
  apply BitVec.eq_of_getLsbD_eq
  intro i hi
  simp only [fA, BitVec.getLsbD_extractLsb', getLsbD_iword, hi, decide_true, Bool.true_and]
  interval_cases i <;> rfl

@[simp] theorem fB_iword (op : BitVec 5) (mode : BitVec 2) (r : BitVec 4) (low : BitVec 5) :
    fB (iword op mode r low) = r.extractLsb' 0 2 := by
  apply BitVec.eq_of_getLsbD_eq
  intro i hi
  simp only [fB, BitVec.getLsbD_extractLsb', getLsbD_iword, hi, decide_true, Bool.true_and]
  interval_cases i <;> rfl

@[simp] theorem fBit8_iword (op : BitVec 5) (mode : BitVec 2) (r : BitVec 4) (low : BitVec 5) :
    fBit8 (iword op mode r low) = r.extractLsb' 3 1 := by
  apply BitVec.eq_of_getLsbD_eq
  intro i hi
  simp only [fBit8, BitVec.getLsbD_extractLsb', getLsbD_iword, hi, decide_true, Bool.true_and]
  interval_cases i
  rfl

@[simp] theorem fCB_iword (op : BitVec 5) (mode : BitVec 2) (r : BitVec 4) (low : BitVec 5) :
    fCB (iword op mode r low) = r.extractLsb' 0 3 := by
  apply BitVec.eq_of_getLsbD_eq
  intro i hi
  simp only [fCB, BitVec.getLsbD_extractLsb', getLsbD_iword, hi, decide_true, Bool.true_and]
  interval_cases i <;> rfl

@[simp] theorem fF_iword (op : BitVec 5) (mode : BitVec 2) (r : BitVec 4) (low : BitVec 5) :
    fF (iword op mode r low) = low.extractLsb' 4 1 := by
  apply BitVec.eq_of_getLsbD_eq
  intro i hi
  simp only [fF, BitVec.getLsbD_extractLsb', getLsbD_iword, hi, decide_true, Bool.true_and]
  interval_cases i
  rfl

@[simp] theorem fFM_iword (op : BitVec 5) (mode : BitVec 2) (r : BitVec 4) (low : BitVec 5) :
    fFM (iword op mode r low) = low.extractLsb' 2 3 := by
  apply BitVec.eq_of_getLsbD_eq
  intro i hi
  simp only [fFM, BitVec.getLsbD_extractLsb', getLsbD_iword, hi, decide_true, Bool.true_and]
  interval_cases i <;> rfl

@[simp] theorem fM_iword (op : BitVec 5) (mode : BitVec 2) (r : BitVec 4) (low : BitVec 5) :
    fM (iword op mode r low) = low.extractLsb' 2 2 := by
  apply BitVec.eq_of_getLsbD_eq
  intro i hi
  simp only [fM, BitVec.getLsbD_extractLsb', getLsbD_iword, hi, decide_true, Bool.true_and]
  interval_cases i <;> rfl

@[simp] theorem fN_iword (op : BitVec 5) (mode : BitVec 2) (r : BitVec 4) (low : BitVec 5) :
    fN (iword op mode r low) = low.extractLsb' 0 2 := by
  apply BitVec.eq_of_getLsbD_eq
  intro i hi
  simp only [fN, BitVec.getLsbD_extractLsb', getLsbD_iword, hi, decide_true, Bool.true_and]
  interval_cases i <;> rfl

@[simp] theorem fS_iword (op : BitVec 5) (mode : BitVec 2) (r : BitVec 4) (low : BitVec 5) :
    fS (iword op mode r low) = low.extractLsb' 0 4 := by
  apply BitVec.eq_of_getLsbD_eq
  intro i hi
  simp only [fS, BitVec.getLsbD_extractLsb', getLsbD_iword, hi, decide_true, Bool.true_and]
  interval_cases i <;> rfl

@[simp] theorem fScc_iword (op : BitVec 5) (mode : BitVec 2) (r : BitVec 4) (low : BitVec 5) :
    fScc (iword op mode r low) = low.extractLsb' 3 2 := by
  apply BitVec.eq_of_getLsbD_eq
  intro i hi
  simp only [fScc, BitVec.getLsbD_extractLsb', getLsbD_iword, hi, decide_true, Bool.true_and]
  interval_cases i <;> rfl

@[simp] theorem fCS_iword (op : BitVec 5) (mode : BitVec 2) (r : BitVec 4) (low : BitVec 5) :
    fCS (iword op mode r low) = low.extractLsb' 0 3 := by
  apply BitVec.eq_of_getLsbD_eq
  intro i hi
  simp only [fCS, BitVec.getLsbD_extractLsb', getLsbD_iword, hi, decide_true, Bool.true_and]
  interval_cases i <;> rfl

@[simp] theorem fOperand_iword (op : BitVec 5) (mode : BitVec 2) (r : BitVec 4) (low : BitVec 5) :
    fOperand (iword op mode r low) = r ++ low := by
  apply BitVec.eq_of_getLsbD_eq
  intro i hi
  simp only [fOperand, BitVec.getLsbD_extractLsb', getLsbD_iword, BitVec.getLsbD_append, hi, decide_true, Bool.true_and]
  interval_cases i <;> rfl

/-! ### Words of LOOKUP (R90) -/

theorem getLsbD_lookupWord (t : BitVec 7) (n : Idx) (i : Nat) :
    (lookupWord t n).getLsbD i =
      if i < 2 then n.bits.getLsbD i
      else if i - 2 < 2 then (0 : BitVec 2).getLsbD (i - 2)
      else if i - 2 - 2 < 5 then (t.extractLsb' 2 5).getLsbD (i - 2 - 2)
      else if i - 2 - 2 - 5 < 2 then (t.extractLsb' 0 2).getLsbD (i - 2 - 2 - 5)
      else (1 : BitVec 5).getLsbD (i - 2 - 2 - 5 - 2) := by
  have h : (lookupWord t n).getLsbD i =
      ((1 : BitVec 5) ++ t.extractLsb' 0 2 ++ t.extractLsb' 2 5 ++ (0 : BitVec 2) ++ n.bits).getLsbD i := rfl
  rw [h]
  simp only [BitVec.getLsbD_append]

@[simp] theorem fOp_lookupWord (t : BitVec 7) (n : Idx) : fOp (lookupWord t n) = 1 := by
  apply BitVec.eq_of_getLsbD_eq
  intro i hi
  simp only [fOp, BitVec.getLsbD_extractLsb', getLsbD_lookupWord, hi, decide_true, Bool.true_and]
  interval_cases i <;> rfl

@[simp] theorem fM_lookupWord (t : BitVec 7) (n : Idx) : fM (lookupWord t n) = 0 := by
  apply BitVec.eq_of_getLsbD_eq
  intro i hi
  simp only [fM, BitVec.getLsbD_extractLsb', getLsbD_lookupWord, hi, decide_true, Bool.true_and]
  interval_cases i <;> rfl

@[simp] theorem fN_lookupWord (t : BitVec 7) (n : Idx) : fN (lookupWord t n) = n.bits := by
  apply BitVec.eq_of_getLsbD_eq
  intro i hi
  simp only [fN, BitVec.getLsbD_extractLsb', getLsbD_lookupWord, hi, decide_true, Bool.true_and]
  interval_cases i <;> rfl

/-- The table number of a LOOKUP word is the one it was written with (R90). -/
@[simp] theorem lookupTable_lookupWord (t : BitVec 7) (n : Idx) : lookupTable (lookupWord t n) = t := by
  apply BitVec.eq_of_getLsbD_eq
  intro i hi
  have h : (lookupTable (lookupWord t n)).getLsbD i =
      ((lookupWord t n).extractLsb' 4 5 ++ fMode (lookupWord t n)).getLsbD i := rfl
  rw [h, BitVec.getLsbD_append]
  simp only [fMode, BitVec.getLsbD_extractLsb', getLsbD_lookupWord]
  interval_cases i <;> rfl

/-! ### The word of HALT (R89) -/

theorem getLsbD_haltWord (n : Byte) (i : Nat) :
    (haltWord n).getLsbD i =
      if i < 8 then n.getLsbD i
      else if i - 8 < 1 then (0 : BitVec 1).getLsbD (i - 8)
      else if i - 8 - 1 < 2 then (1 : BitVec 2).getLsbD (i - 8 - 1)
      else (0x00 : BitVec 5).getLsbD (i - 8 - 1 - 2) := by
  have h : (haltWord n).getLsbD i =
      ((0x00 : BitVec 5) ++ (1 : BitVec 2) ++ (0 : BitVec 1) ++ n).getLsbD i := rfl
  rw [h]
  simp only [BitVec.getLsbD_append]

@[simp] theorem fOp_haltWord (n : Byte) : fOp (haltWord n) = 0 := by
  apply BitVec.eq_of_getLsbD_eq
  intro i hi
  simp only [fOp, BitVec.getLsbD_extractLsb', getLsbD_haltWord, hi, decide_true, Bool.true_and]
  interval_cases i <;> rfl

@[simp] theorem fMode_haltWord (n : Byte) : fMode (haltWord n) = 1 := by
  apply BitVec.eq_of_getLsbD_eq
  intro i hi
  simp only [fMode, BitVec.getLsbD_extractLsb', getLsbD_haltWord, hi, decide_true, Bool.true_and]
  interval_cases i <;> rfl

@[simp] theorem fBit8_haltWord (n : Byte) : fBit8 (haltWord n) = 0 := by
  apply BitVec.eq_of_getLsbD_eq
  intro i hi
  simp only [fBit8, BitVec.getLsbD_extractLsb', getLsbD_haltWord, hi, decide_true, Bool.true_and]
  interval_cases i
  rfl

@[simp] theorem lowByte_haltWord (n : Byte) : (haltWord n).extractLsb' 0 8 = n := by
  apply BitVec.eq_of_getLsbD_eq
  intro i hi
  simp only [BitVec.getLsbD_extractLsb', getLsbD_haltWord, hi, decide_true, Bool.true_and]
  interval_cases i <;> rfl

/-- A LOOKUP is one word long, whatever its page (R84, R90). -/
@[simp] theorem wordsOf_lookupWord (t : BitVec 7) (n : Idx) : wordsOf (lookupWord t n) = 1 := by
  unfold wordsOf
  rw [fOp_lookupWord]
  rfl

/-! ### Codes read back (R86, R87) -/

@[simp] theorem Idx.ofBits_bits (i : Idx) : Idx.ofBits i.bits = i := by cases i <;> rfl
@[simp] theorem Idx.bits_ofBits (b : BitVec 2) : (Idx.ofBits b).bits = b := by revert b; decide
@[simp] theorem Gpr.ofCode?_code (g : Gpr) : Gpr.ofCode? g.code = some g := by rcases g with i | i | i <;> cases i <;> rfl
@[simp] theorem MoveDst.ofCode?_code (d : MoveDst) : MoveDst.ofCode? d.code = some d := by
  rcases d with (i | i | i) | _ | _ <;> first | rfl | (cases i <;> rfl)
@[simp] theorem MoveSrc.ofCode?_code (d : MoveSrc) : MoveSrc.ofCode? d.code = some d := by
  rcases d with i | i | _ | _ | _ <;> first | rfl | (cases i <;> rfl)
@[simp] theorem StackReg.ofCode?_code (r : StackReg) : StackReg.ofCode? r.code = some r := by
  rcases r with (i | i | i) | _ <;> first | rfl | (cases i <;> rfl)
@[simp] theorem XYReg.ofCode?_code (r : XYReg) : XYReg.ofCode? r.code = some r := by
  rcases r with i | i <;> cases i <;> rfl
@[simp] theorem Cond.ofCode_code (c : Cond) : Cond.ofCode c.code = c := by cases c <;> rfl
@[simp] theorem Cond.code_ofCode (c : BitVec 3) : (Cond.ofCode c).code = c := by revert c; decide

/-- A general register of a code has that code; 12 to 15 have none. -/
theorem Gpr.code_of_ofCode? {c : BitVec 4} {g : Gpr} (h : Gpr.ofCode? c = some g) : g.code = c := by
  revert c; rcases g with i | i | i <;> cases i <;> decide
theorem MoveDst.code_of_ofCode? {c : BitVec 4} {d : MoveDst} (h : MoveDst.ofCode? c = some d) : d.code = c := by
  revert c; rcases d with (i | i | i) | _ | _ <;> first | decide | (cases i <;> decide)
theorem MoveSrc.code_of_ofCode? {c : BitVec 4} {d : MoveSrc} (h : MoveSrc.ofCode? c = some d) : d.code = c := by
  revert c; rcases d with i | i | _ | _ | _ <;> first | decide | (cases i <;> decide)
theorem StackReg.code_of_ofCode? {c : BitVec 4} {r : StackReg} (h : StackReg.ofCode? c = some r) : r.code = c := by
  revert c; rcases r with (i | i | i) | _ <;> first | decide | (cases i <;> decide)
theorem XYReg.code_of_ofCode? {c : BitVec 4} {r : XYReg} (h : XYReg.ofCode? c = some r) : r.code = c := by
  revert c; rcases r with i | i <;> cases i <;> decide

/-! ### Slices of the operand parts that the encoder writes -/

@[simp] theorem Idx.low_N (n : Idx) : n.low.extractLsb' 0 2 = n.bits := by cases n <;> rfl
@[simp] theorem Idx.low_M (n : Idx) : n.low.extractLsb' 2 2 = 0 := by cases n <;> rfl
@[simp] theorem Idx.low_FM (n : Idx) : n.low.extractLsb' 2 3 = 0 := by cases n <;> rfl
@[simp] theorem Idx.low_F (n : Idx) : n.low.extractLsb' 4 1 = 0 := by cases n <;> rfl
@[simp] theorem Idx.lowF_N (n : Idx) : n.lowF.extractLsb' 0 2 = n.bits := by cases n <;> rfl
@[simp] theorem Idx.lowF_M (n : Idx) : n.lowF.extractLsb' 2 2 = 0 := by cases n <;> rfl
@[simp] theorem Idx.lowF_F (n : Idx) : n.lowF.extractLsb' 4 1 = 1 := by cases n <;> rfl
@[simp] theorem Idx.inA_A (n : Idx) : n.inA.extractLsb' 2 2 = n.bits := by cases n <;> rfl
@[simp] theorem Idx.inA_B (n : Idx) : n.inA.extractLsb' 0 2 = 0 := by cases n <;> rfl
@[simp] theorem Idx.inB_A (n : Idx) : n.inB.extractLsb' 2 2 = 0 := by cases n <;> rfl
@[simp] theorem Idx.inB_B (n : Idx) : n.inB.extractLsb' 0 2 = n.bits := by cases n <;> rfl
@[simp] theorem pairAB_A (a b : Idx) : (pairAB a b).extractLsb' 2 2 = a.bits := by cases a <;> cases b <;> rfl
@[simp] theorem pairAB_B (a b : Idx) : (pairAB a b).extractLsb' 0 2 = b.bits := by cases a <;> cases b <;> rfl
@[simp] theorem inS_S (c : BitVec 4) : (inS c).extractLsb' 0 4 = c := by revert c; decide
@[simp] theorem inS_F (c : BitVec 4) : (inS c).extractLsb' 4 1 = 0 := by revert c; decide
theorem Cond.scc_slices (c : Cond) :
    ((0 : BitVec 2) ++ c.code).extractLsb' 3 2 = 0 ∧ ((0 : BitVec 2) ++ c.code).extractLsb' 0 3 = c.code := by
  cases c <;> exact ⟨rfl, rfl⟩
theorem Cond.branch_slices (c : Cond) :
    ((0 : BitVec 1) ++ c.code).extractLsb' 3 1 = 0 ∧ ((0 : BitVec 1) ++ c.code).extractLsb' 0 3 = c.code := by
  cases c <;> exact ⟨rfl, rfl⟩

/-! ### Words as bytes (R54) -/

@[simp] theorem hiByte_append_loByte (w : Word) : hiByte w ++ loByte w = w := by
  apply BitVec.eq_of_getLsbD_eq
  intro i hi
  have h : (hiByte w ++ loByte w).getLsbD i = if i < 8 then (loByte w).getLsbD i else (hiByte w).getLsbD (i - 8) :=
    BitVec.getLsbD_append
  rw [h]
  split
  · simp [loByte, *]
  · simp [hiByte, show i - 8 < 8 by omega, show 8 + (i - 8) = i by omega]

@[simp] theorem takeWord_wordBytes (w : Word) (rest : List Byte) : takeWord (wordBytes w ++ rest) = some (w, rest) := by
  simp [takeWord, wordBytes]

/-! ### Other layouts and register codes (`OPERAND_LAYOUT`, `REG_CODES`) -/

/-- The bits of an instruction word above the operand field do not depend on its layout. -/
theorem extract_canonWord (cfg : Config) (w : Word) (i : Nat) (hi : 9 ≤ i) (h : i < 16) :
    (canonWord cfg w).getLsbD i = w.getLsbD i := by
  unfold canonWord
  rw [BitVec.getLsbD_append, BitVec.getLsbD_append, BitVec.getLsbD_append, if_neg (by omega), if_neg (by omega),
    if_neg (by omega), BitVec.getLsbD_extractLsb']
  simp [show i - 4 - 1 - 4 < 7 by omega, show 9 + (i - 4 - 1 - 4) = i by omega]

@[simp] theorem fOp_canonWord (cfg : Config) (w : Word) : fOp (canonWord cfg w) = fOp w := by
  apply BitVec.eq_of_getLsbD_eq
  intro i hi
  simp [fOp, hi, extract_canonWord cfg w (11 + i) (by omega) (by omega)]

@[simp] theorem fMode_canonWord (cfg : Config) (w : Word) : fMode (canonWord cfg w) = fMode w := by
  apply BitVec.eq_of_getLsbD_eq
  intro i hi
  simp [fMode, hi, extract_canonWord cfg w (9 + i) (by omega) (by omega)]

/-- The length of an instruction does not depend on the layout of its operands (R80, R84). -/
@[simp] theorem wordsOf_canonWord (cfg : Config) (w : Word) : wordsOf (canonWord cfg w) = wordsOf w := by
  simp [wordsOf]

/-- Only the instruction word is read in the layout; the words after it stay. -/
@[simp] theorem canonBytes_wordBytes (cfg : Config) (w : Word) (rest : List Byte) :
    canonBytes cfg (wordBytes w ++ rest) = wordBytes (canonWord cfg w) ++ rest := by
  simp [canonBytes]

/-- A bank word has a zero high byte, and its low byte is the bank (R85). -/
@[simp] theorem hiByte_bankWord (b : Byte) : hiByte (b.setWidth 16) = 0 := by
  apply BitVec.eq_of_getLsbD_eq
  intro i hi
  simp [hiByte, hi]

@[simp] theorem loByte_bankWord (b : Byte) : loByte (b.setWidth 16) = b := by
  apply BitVec.eq_of_getLsbD_eq
  intro i hi
  simp [loByte, hi]
  omega

/-- The number of a D register in field B is its code in field R (R82, R86). -/
@[simp] theorem Gpr.ofCode?_inB (n : Idx) : Gpr.ofCode? n.inB = some (.d n) := by cases n <;> rfl

/-- To decode an encoding it is enough to decode its words, if they are as many as the first of them says (R84). -/
theorem decode_encode_of_words {i : Instr} {ws : List Word} (rest : List Byte) (he : encodeWords i = ws)
    (hl : ws.length = wordsOf (ws.headD 0)) (h3 : 1 ≤ ws.length ∧ ws.length ≤ 3)
    (hd : decodeWords (ws.headD 0) (ws.getD 1 0) (ws.getD 2 0) = .ok i) : decode (encode i ++ rest) = .ok (i, rest) := by
  rw [encode, he]
  match ws, h3 with
  | [], h => exact absurd h.1 (by decide)
  | [a], _ =>
    replace hl : 1 = wordsOf a := hl
    replace hd : decodeWords a 0 0 = .ok i := hd
    simp only [List.flatMap_cons, List.flatMap_nil, List.append_assoc, List.nil_append, decode, takeWord_wordBytes, ← hl]
    show Except.map _ (decodeWords a 0 0) = _
    rw [hd]
    rfl
  | [a, b], _ =>
    replace hl : 2 = wordsOf a := hl
    replace hd : decodeWords a b 0 = .ok i := hd
    simp only [List.flatMap_cons, List.flatMap_nil, List.append_assoc, List.nil_append, decode, takeWord_wordBytes, ← hl]
    show Except.map _ (decodeWords a b 0) = _
    rw [hd]
    rfl
  | [a, b, c], _ =>
    replace hl : 3 = wordsOf a := hl
    replace hd : decodeWords a b c = .ok i := hd
    simp only [List.flatMap_cons, List.flatMap_nil, List.append_assoc, List.nil_append, decode, takeWord_wordBytes, ← hl,
      hd]
    rfl
  | _ :: _ :: _ :: _ :: _, h => exact absurd h.2 (by simp only [List.length_cons]; omega)

end Sys2Proof
end

