-- ==== Sys2Proof/Laws/State.lean ====
section
/-!
SUPPORT. What each update of the state leaves in each field, what the register accessors read after each update, and what
the reset state holds in each field: one small lemma each.
-/

namespace Sys2Proof.Machine

/-! ### State.setFlags -/

@[simp] theorem State.setFlags_d (s : State) (f : Flags) : (s.setFlags f).d = s.d := rfl
@[simp] theorem State.setFlags_x (s : State) (f : Flags) : (s.setFlags f).x = s.x := rfl
@[simp] theorem State.setFlags_y (s : State) (f : Flags) : (s.setFlags f).y = s.y := rfl
@[simp] theorem State.setFlags_pc (s : State) (f : Flags) : (s.setFlags f).pc = s.pc := rfl
@[simp] theorem State.setFlags_c (s : State) (f : Flags) : (s.setFlags f).c = f.c := rfl
@[simp] theorem State.setFlags_z (s : State) (f : Flags) : (s.setFlags f).z = f.z := rfl
@[simp] theorem State.setFlags_n (s : State) (f : Flags) : (s.setFlags f).n = f.n := rfl
@[simp] theorem State.setFlags_v (s : State) (f : Flags) : (s.setFlags f).v = f.v := rfl
@[simp] theorem State.setFlags_ie (s : State) (f : Flags) : (s.setFlags f).ie = s.ie := rfl
@[simp] theorem State.setFlags_halted (s : State) (f : Flags) : (s.setFlags f).halted = s.halted := rfl
@[simp] theorem State.setFlags_haltCode (s : State) (f : Flags) : (s.setFlags f).haltCode = s.haltCode := rfl
@[simp] theorem State.setFlags_mem (s : State) (f : Flags) : (s.setFlags f).mem = s.mem := rfl
@[simp] theorem State.setFlags_rom (s : State) (f : Flags) : (s.setFlags f).rom = s.rom := rfl
@[simp] theorem State.setFlags_trashed (s : State) (f : Flags) : (s.setFlags f).trashed = Flags.none := rfl
@[simp] theorem State.setFlags_irq (s : State) (f : Flags) : (s.setFlags f).irq = s.irq := rfl
@[simp] theorem State.setFlags_out (s : State) (f : Flags) : (s.setFlags f).out = s.out := rfl
@[simp] theorem State.setFlags_draws (s : State) (f : Flags) : (s.setFlags f).draws = s.draws := rfl
@[simp] theorem State.setFlags_cfg (s : State) (f : Flags) : (s.setFlags f).cfg = s.cfg := rfl

/-! ### State.setLogicFlags -/

@[simp] theorem State.setLogicFlags_d (s : State) (w : Word) : (s.setLogicFlags w).d = s.d := rfl
@[simp] theorem State.setLogicFlags_x (s : State) (w : Word) : (s.setLogicFlags w).x = s.x := rfl
@[simp] theorem State.setLogicFlags_y (s : State) (w : Word) : (s.setLogicFlags w).y = s.y := rfl
@[simp] theorem State.setLogicFlags_pc (s : State) (w : Word) : (s.setLogicFlags w).pc = s.pc := rfl
@[simp] theorem State.setLogicFlags_c (s : State) (w : Word) : (s.setLogicFlags w).c = false := rfl
@[simp] theorem State.setLogicFlags_z (s : State) (w : Word) : (s.setLogicFlags w).z = (w == 0) := rfl
@[simp] theorem State.setLogicFlags_n (s : State) (w : Word) : (s.setLogicFlags w).n = w.msb := rfl
@[simp] theorem State.setLogicFlags_v (s : State) (w : Word) : (s.setLogicFlags w).v = s.v := rfl
@[simp] theorem State.setLogicFlags_ie (s : State) (w : Word) : (s.setLogicFlags w).ie = s.ie := rfl
@[simp] theorem State.setLogicFlags_halted (s : State) (w : Word) : (s.setLogicFlags w).halted = s.halted := rfl
@[simp] theorem State.setLogicFlags_haltCode (s : State) (w : Word) : (s.setLogicFlags w).haltCode = s.haltCode := rfl
@[simp] theorem State.setLogicFlags_mem (s : State) (w : Word) : (s.setLogicFlags w).mem = s.mem := rfl
@[simp] theorem State.setLogicFlags_rom (s : State) (w : Word) : (s.setLogicFlags w).rom = s.rom := rfl
@[simp] theorem State.setLogicFlags_trashed (s : State) (w : Word) : (s.setLogicFlags w).trashed = { Flags.none with v := s.trashed.v } := rfl
@[simp] theorem State.setLogicFlags_irq (s : State) (w : Word) : (s.setLogicFlags w).irq = s.irq := rfl
@[simp] theorem State.setLogicFlags_out (s : State) (w : Word) : (s.setLogicFlags w).out = s.out := rfl
@[simp] theorem State.setLogicFlags_draws (s : State) (w : Word) : (s.setLogicFlags w).draws = s.draws := rfl
@[simp] theorem State.setLogicFlags_cfg (s : State) (w : Word) : (s.setLogicFlags w).cfg = s.cfg := rfl

/-! ### State.writeSr -/

@[simp] theorem State.writeSr_d (s : State) (w : Word) : (s.writeSr w).d = s.d := rfl
@[simp] theorem State.writeSr_x (s : State) (w : Word) : (s.writeSr w).x = s.x := rfl
@[simp] theorem State.writeSr_y (s : State) (w : Word) : (s.writeSr w).y = s.y := rfl
@[simp] theorem State.writeSr_pc (s : State) (w : Word) : (s.writeSr w).pc = s.pc := rfl
@[simp] theorem State.writeSr_c (s : State) (w : Word) : (s.writeSr w).c = w.getLsbD 0 := rfl
@[simp] theorem State.writeSr_z (s : State) (w : Word) : (s.writeSr w).z = w.getLsbD 1 := rfl
@[simp] theorem State.writeSr_n (s : State) (w : Word) : (s.writeSr w).n = w.getLsbD 2 := rfl
@[simp] theorem State.writeSr_v (s : State) (w : Word) : (s.writeSr w).v = w.getLsbD 3 := rfl
@[simp] theorem State.writeSr_ie (s : State) (w : Word) : (s.writeSr w).ie = s.ie := rfl
@[simp] theorem State.writeSr_halted (s : State) (w : Word) : (s.writeSr w).halted = s.halted := rfl
@[simp] theorem State.writeSr_haltCode (s : State) (w : Word) : (s.writeSr w).haltCode = s.haltCode := rfl
@[simp] theorem State.writeSr_mem (s : State) (w : Word) : (s.writeSr w).mem = s.mem := rfl
@[simp] theorem State.writeSr_rom (s : State) (w : Word) : (s.writeSr w).rom = s.rom := rfl
@[simp] theorem State.writeSr_trashed (s : State) (w : Word) : (s.writeSr w).trashed = Flags.none := rfl
@[simp] theorem State.writeSr_irq (s : State) (w : Word) : (s.writeSr w).irq = s.irq := rfl
@[simp] theorem State.writeSr_out (s : State) (w : Word) : (s.writeSr w).out = s.out := rfl
@[simp] theorem State.writeSr_draws (s : State) (w : Word) : (s.writeSr w).draws = s.draws := rfl
@[simp] theorem State.writeSr_cfg (s : State) (w : Word) : (s.writeSr w).cfg = s.cfg := rfl

/-! ### State.setXY -/

@[simp] theorem State.setXY_d (s : State) (i : Idx) (a : Addr) : (s.setXY i a).d = s.d := rfl
@[simp] theorem State.setXY_x (s : State) (i : Idx) (a : Addr) : (s.setXY i a).x = s.x.set i (offsetOf a) := rfl
@[simp] theorem State.setXY_y (s : State) (i : Idx) (a : Addr) : (s.setXY i a).y = s.y.set i (bankOf a) := rfl
@[simp] theorem State.setXY_pc (s : State) (i : Idx) (a : Addr) : (s.setXY i a).pc = s.pc := rfl
@[simp] theorem State.setXY_c (s : State) (i : Idx) (a : Addr) : (s.setXY i a).c = s.c := rfl
@[simp] theorem State.setXY_z (s : State) (i : Idx) (a : Addr) : (s.setXY i a).z = s.z := rfl
@[simp] theorem State.setXY_n (s : State) (i : Idx) (a : Addr) : (s.setXY i a).n = s.n := rfl
@[simp] theorem State.setXY_v (s : State) (i : Idx) (a : Addr) : (s.setXY i a).v = s.v := rfl
@[simp] theorem State.setXY_ie (s : State) (i : Idx) (a : Addr) : (s.setXY i a).ie = s.ie := rfl
@[simp] theorem State.setXY_halted (s : State) (i : Idx) (a : Addr) : (s.setXY i a).halted = s.halted := rfl
@[simp] theorem State.setXY_haltCode (s : State) (i : Idx) (a : Addr) : (s.setXY i a).haltCode = s.haltCode := rfl
@[simp] theorem State.setXY_mem (s : State) (i : Idx) (a : Addr) : (s.setXY i a).mem = s.mem := rfl
@[simp] theorem State.setXY_rom (s : State) (i : Idx) (a : Addr) : (s.setXY i a).rom = s.rom := rfl
@[simp] theorem State.setXY_trashed (s : State) (i : Idx) (a : Addr) : (s.setXY i a).trashed = s.trashed := rfl
@[simp] theorem State.setXY_irq (s : State) (i : Idx) (a : Addr) : (s.setXY i a).irq = s.irq := rfl
@[simp] theorem State.setXY_out (s : State) (i : Idx) (a : Addr) : (s.setXY i a).out = s.out := rfl
@[simp] theorem State.setXY_draws (s : State) (i : Idx) (a : Addr) : (s.setXY i a).draws = s.draws := rfl
@[simp] theorem State.setXY_cfg (s : State) (i : Idx) (a : Addr) : (s.setXY i a).cfg = s.cfg := rfl

/-! ### State.advance -/

@[simp] theorem State.advance_d (s : State) (k : Nat) : (s.advance k).d = s.d := rfl
@[simp] theorem State.advance_x (s : State) (k : Nat) : (s.advance k).x = s.x := rfl
@[simp] theorem State.advance_y (s : State) (k : Nat) : (s.advance k).y = s.y := rfl
@[simp] theorem State.advance_pc (s : State) (k : Nat) : (s.advance k).pc = s.nextPc k := rfl
@[simp] theorem State.advance_c (s : State) (k : Nat) : (s.advance k).c = s.c := rfl
@[simp] theorem State.advance_z (s : State) (k : Nat) : (s.advance k).z = s.z := rfl
@[simp] theorem State.advance_n (s : State) (k : Nat) : (s.advance k).n = s.n := rfl
@[simp] theorem State.advance_v (s : State) (k : Nat) : (s.advance k).v = s.v := rfl
@[simp] theorem State.advance_ie (s : State) (k : Nat) : (s.advance k).ie = s.ie := rfl
@[simp] theorem State.advance_halted (s : State) (k : Nat) : (s.advance k).halted = s.halted := rfl
@[simp] theorem State.advance_haltCode (s : State) (k : Nat) : (s.advance k).haltCode = s.haltCode := rfl
@[simp] theorem State.advance_mem (s : State) (k : Nat) : (s.advance k).mem = s.mem := rfl
@[simp] theorem State.advance_rom (s : State) (k : Nat) : (s.advance k).rom = s.rom := rfl
@[simp] theorem State.advance_trashed (s : State) (k : Nat) : (s.advance k).trashed = s.trashed := rfl
@[simp] theorem State.advance_irq (s : State) (k : Nat) : (s.advance k).irq = s.irq := rfl
@[simp] theorem State.advance_out (s : State) (k : Nat) : (s.advance k).out = s.out := rfl
@[simp] theorem State.advance_draws (s : State) (k : Nat) : (s.advance k).draws = s.draws := rfl
@[simp] theorem State.advance_cfg (s : State) (k : Nat) : (s.advance k).cfg = s.cfg := rfl

/-! ### State.jump -/

@[simp] theorem State.jump_d (s : State) (a : Addr) : (s.jump a).d = s.d := rfl
@[simp] theorem State.jump_x (s : State) (a : Addr) : (s.jump a).x = s.x := rfl
@[simp] theorem State.jump_y (s : State) (a : Addr) : (s.jump a).y = s.y := rfl
@[simp] theorem State.jump_pc (s : State) (a : Addr) : (s.jump a).pc = a := rfl
@[simp] theorem State.jump_c (s : State) (a : Addr) : (s.jump a).c = s.c := rfl
@[simp] theorem State.jump_z (s : State) (a : Addr) : (s.jump a).z = s.z := rfl
@[simp] theorem State.jump_n (s : State) (a : Addr) : (s.jump a).n = s.n := rfl
@[simp] theorem State.jump_v (s : State) (a : Addr) : (s.jump a).v = s.v := rfl
@[simp] theorem State.jump_ie (s : State) (a : Addr) : (s.jump a).ie = s.ie := rfl
@[simp] theorem State.jump_halted (s : State) (a : Addr) : (s.jump a).halted = s.halted := rfl
@[simp] theorem State.jump_haltCode (s : State) (a : Addr) : (s.jump a).haltCode = s.haltCode := rfl
@[simp] theorem State.jump_mem (s : State) (a : Addr) : (s.jump a).mem = s.mem := rfl
@[simp] theorem State.jump_rom (s : State) (a : Addr) : (s.jump a).rom = s.rom := rfl
@[simp] theorem State.jump_trashed (s : State) (a : Addr) : (s.jump a).trashed = s.trashed := rfl
@[simp] theorem State.jump_irq (s : State) (a : Addr) : (s.jump a).irq = s.irq := rfl
@[simp] theorem State.jump_out (s : State) (a : Addr) : (s.jump a).out = s.out := rfl
@[simp] theorem State.jump_draws (s : State) (a : Addr) : (s.jump a).draws = s.draws := rfl
@[simp] theorem State.jump_cfg (s : State) (a : Addr) : (s.jump a).cfg = s.cfg := rfl

/-! ### State.drawn -/

@[simp] theorem State.drawn_d (s : State) (k : Nat) : (s.drawn k).d = s.d := rfl
@[simp] theorem State.drawn_x (s : State) (k : Nat) : (s.drawn k).x = s.x := rfl
@[simp] theorem State.drawn_y (s : State) (k : Nat) : (s.drawn k).y = s.y := rfl
@[simp] theorem State.drawn_pc (s : State) (k : Nat) : (s.drawn k).pc = s.pc := rfl
@[simp] theorem State.drawn_c (s : State) (k : Nat) : (s.drawn k).c = s.c := rfl
@[simp] theorem State.drawn_z (s : State) (k : Nat) : (s.drawn k).z = s.z := rfl
@[simp] theorem State.drawn_n (s : State) (k : Nat) : (s.drawn k).n = s.n := rfl
@[simp] theorem State.drawn_v (s : State) (k : Nat) : (s.drawn k).v = s.v := rfl
@[simp] theorem State.drawn_ie (s : State) (k : Nat) : (s.drawn k).ie = s.ie := rfl
@[simp] theorem State.drawn_halted (s : State) (k : Nat) : (s.drawn k).halted = s.halted := rfl
@[simp] theorem State.drawn_haltCode (s : State) (k : Nat) : (s.drawn k).haltCode = s.haltCode := rfl
@[simp] theorem State.drawn_mem (s : State) (k : Nat) : (s.drawn k).mem = s.mem := rfl
@[simp] theorem State.drawn_rom (s : State) (k : Nat) : (s.drawn k).rom = s.rom := rfl
@[simp] theorem State.drawn_trashed (s : State) (k : Nat) : (s.drawn k).trashed = s.trashed := rfl
@[simp] theorem State.drawn_irq (s : State) (k : Nat) : (s.drawn k).irq = s.irq := rfl
@[simp] theorem State.drawn_out (s : State) (k : Nat) : (s.drawn k).out = s.out := rfl
@[simp] theorem State.drawn_draws (s : State) (k : Nat) : (s.drawn k).draws = s.draws + k := rfl
@[simp] theorem State.drawn_cfg (s : State) (k : Nat) : (s.drawn k).cfg = s.cfg := rfl

/-! ### State.trashFlags -/

@[simp] theorem State.trashFlags_d (s : State) : s.trashFlags.d = s.d := rfl
@[simp] theorem State.trashFlags_x (s : State) : s.trashFlags.x = s.x := rfl
@[simp] theorem State.trashFlags_y (s : State) : s.trashFlags.y = s.y := rfl
@[simp] theorem State.trashFlags_pc (s : State) : s.trashFlags.pc = s.pc := rfl
@[simp] theorem State.trashFlags_c (s : State) : s.trashFlags.c = Config.freeBit s.draws := rfl
@[simp] theorem State.trashFlags_z (s : State) : s.trashFlags.z = Config.freeBit (s.draws + 1) := rfl
@[simp] theorem State.trashFlags_n (s : State) : s.trashFlags.n = Config.freeBit (s.draws + 2) := rfl
@[simp] theorem State.trashFlags_v (s : State) : s.trashFlags.v = Config.freeBit (s.draws + 3) := rfl
@[simp] theorem State.trashFlags_ie (s : State) : s.trashFlags.ie = s.ie := rfl
@[simp] theorem State.trashFlags_halted (s : State) : s.trashFlags.halted = s.halted := rfl
@[simp] theorem State.trashFlags_haltCode (s : State) : s.trashFlags.haltCode = s.haltCode := rfl
@[simp] theorem State.trashFlags_mem (s : State) : s.trashFlags.mem = s.mem := rfl
@[simp] theorem State.trashFlags_rom (s : State) : s.trashFlags.rom = s.rom := rfl
@[simp] theorem State.trashFlags_trashed (s : State) : s.trashFlags.trashed = Flags.all := rfl
@[simp] theorem State.trashFlags_irq (s : State) : s.trashFlags.irq = s.irq := rfl
@[simp] theorem State.trashFlags_out (s : State) : s.trashFlags.out = s.out := rfl
@[simp] theorem State.trashFlags_draws (s : State) : s.trashFlags.draws = s.draws + 4 := rfl
@[simp] theorem State.trashFlags_cfg (s : State) : s.trashFlags.cfg = s.cfg := rfl

/-! ### State.tick -/

@[simp] theorem State.tick_d (s : State) : s.tick.d = s.d := rfl
@[simp] theorem State.tick_x (s : State) : s.tick.x = s.x := rfl
@[simp] theorem State.tick_y (s : State) : s.tick.y = s.y := rfl
@[simp] theorem State.tick_pc (s : State) : s.tick.pc = s.pc := rfl
@[simp] theorem State.tick_c (s : State) : s.tick.c = s.c := rfl
@[simp] theorem State.tick_z (s : State) : s.tick.z = s.z := rfl
@[simp] theorem State.tick_n (s : State) : s.tick.n = s.n := rfl
@[simp] theorem State.tick_v (s : State) : s.tick.v = s.v := rfl
@[simp] theorem State.tick_ie (s : State) : s.tick.ie = s.ie := rfl
@[simp] theorem State.tick_halted (s : State) : s.tick.halted = s.halted := rfl
@[simp] theorem State.tick_haltCode (s : State) : s.tick.haltCode = s.haltCode := rfl
@[simp] theorem State.tick_mem (s : State) : s.tick.mem = s.mem := rfl
@[simp] theorem State.tick_rom (s : State) : s.tick.rom = s.rom := rfl
@[simp] theorem State.tick_trashed (s : State) : s.tick.trashed = s.trashed := rfl
@[simp] theorem State.tick_irq (s : State) : s.tick.irq = s.irq.tail := rfl
@[simp] theorem State.tick_out (s : State) : s.tick.out = s.out := rfl
@[simp] theorem State.tick_draws (s : State) : s.tick.draws = s.draws := rfl
@[simp] theorem State.tick_cfg (s : State) : s.tick.cfg = s.cfg := rfl

/-! ### State.writeG -/

@[simp] theorem State.writeG_pc (s : State) (g : Gpr) (w : Word) : (s.writeG g w).pc = s.pc := by cases g <;> rfl
@[simp] theorem State.writeG_c (s : State) (g : Gpr) (w : Word) : (s.writeG g w).c = s.c := by cases g <;> rfl
@[simp] theorem State.writeG_z (s : State) (g : Gpr) (w : Word) : (s.writeG g w).z = s.z := by cases g <;> rfl
@[simp] theorem State.writeG_n (s : State) (g : Gpr) (w : Word) : (s.writeG g w).n = s.n := by cases g <;> rfl
@[simp] theorem State.writeG_v (s : State) (g : Gpr) (w : Word) : (s.writeG g w).v = s.v := by cases g <;> rfl
@[simp] theorem State.writeG_ie (s : State) (g : Gpr) (w : Word) : (s.writeG g w).ie = s.ie := by cases g <;> rfl
@[simp] theorem State.writeG_halted (s : State) (g : Gpr) (w : Word) : (s.writeG g w).halted = s.halted := by cases g <;> rfl
@[simp] theorem State.writeG_haltCode (s : State) (g : Gpr) (w : Word) : (s.writeG g w).haltCode = s.haltCode := by cases g <;> rfl
@[simp] theorem State.writeG_mem (s : State) (g : Gpr) (w : Word) : (s.writeG g w).mem = s.mem := by cases g <;> rfl
@[simp] theorem State.writeG_rom (s : State) (g : Gpr) (w : Word) : (s.writeG g w).rom = s.rom := by cases g <;> rfl
@[simp] theorem State.writeG_trashed (s : State) (g : Gpr) (w : Word) : (s.writeG g w).trashed = s.trashed := by cases g <;> rfl
@[simp] theorem State.writeG_irq (s : State) (g : Gpr) (w : Word) : (s.writeG g w).irq = s.irq := by cases g <;> rfl
@[simp] theorem State.writeG_out (s : State) (g : Gpr) (w : Word) : (s.writeG g w).out = s.out := by cases g <;> rfl
@[simp] theorem State.writeG_draws (s : State) (g : Gpr) (w : Word) : (s.writeG g w).draws = s.draws := by cases g <;> rfl
@[simp] theorem State.writeG_cfg (s : State) (g : Gpr) (w : Word) : (s.writeG g w).cfg = s.cfg := by cases g <;> rfl

/-! ### State.writeStackReg -/

@[simp] theorem State.writeStackReg_pc (s : State) (r : StackReg) (w : Word) : (s.writeStackReg r w).pc = s.pc := by rcases r with (_ | _ | _) | _ <;> rfl
@[simp] theorem State.writeStackReg_ie (s : State) (r : StackReg) (w : Word) : (s.writeStackReg r w).ie = s.ie := by rcases r with (_ | _ | _) | _ <;> rfl
@[simp] theorem State.writeStackReg_halted (s : State) (r : StackReg) (w : Word) : (s.writeStackReg r w).halted = s.halted := by rcases r with (_ | _ | _) | _ <;> rfl
@[simp] theorem State.writeStackReg_haltCode (s : State) (r : StackReg) (w : Word) : (s.writeStackReg r w).haltCode = s.haltCode := by rcases r with (_ | _ | _) | _ <;> rfl
@[simp] theorem State.writeStackReg_mem (s : State) (r : StackReg) (w : Word) : (s.writeStackReg r w).mem = s.mem := by rcases r with (_ | _ | _) | _ <;> rfl
@[simp] theorem State.writeStackReg_rom (s : State) (r : StackReg) (w : Word) : (s.writeStackReg r w).rom = s.rom := by rcases r with (_ | _ | _) | _ <;> rfl
@[simp] theorem State.writeStackReg_irq (s : State) (r : StackReg) (w : Word) : (s.writeStackReg r w).irq = s.irq := by rcases r with (_ | _ | _) | _ <;> rfl
@[simp] theorem State.writeStackReg_out (s : State) (r : StackReg) (w : Word) : (s.writeStackReg r w).out = s.out := by rcases r with (_ | _ | _) | _ <;> rfl
@[simp] theorem State.writeStackReg_draws (s : State) (r : StackReg) (w : Word) : (s.writeStackReg r w).draws = s.draws := by rcases r with (_ | _ | _) | _ <;> rfl
@[simp] theorem State.writeStackReg_cfg (s : State) (r : StackReg) (w : Word) : (s.writeStackReg r w).cfg = s.cfg := by rcases r with (_ | _ | _) | _ <;> rfl

/-! ### State.ofReset and State.reset -/

@[simp] theorem State.ofReset_d (cfg : Config) : (State.ofReset cfg).d = cfg.resetState.d := rfl
@[simp] theorem State.ofReset_x (cfg : Config) : (State.ofReset cfg).x = cfg.resetState.x := rfl
@[simp] theorem State.ofReset_y (cfg : Config) : (State.ofReset cfg).y = cfg.resetState.y := rfl
@[simp] theorem State.ofReset_pc (cfg : Config) : (State.ofReset cfg).pc = cfg.resetState.pc := rfl
@[simp] theorem State.ofReset_c (cfg : Config) : (State.ofReset cfg).c = cfg.resetState.c := rfl
@[simp] theorem State.ofReset_z (cfg : Config) : (State.ofReset cfg).z = cfg.resetState.z := rfl
@[simp] theorem State.ofReset_n (cfg : Config) : (State.ofReset cfg).n = cfg.resetState.n := rfl
@[simp] theorem State.ofReset_v (cfg : Config) : (State.ofReset cfg).v = cfg.resetState.v := rfl
@[simp] theorem State.ofReset_ie (cfg : Config) : (State.ofReset cfg).ie = cfg.resetState.ie := rfl
@[simp] theorem State.ofReset_halted (cfg : Config) : (State.ofReset cfg).halted = cfg.resetState.halted := rfl
@[simp] theorem State.ofReset_haltCode (cfg : Config) : (State.ofReset cfg).haltCode = cfg.resetState.haltCode := rfl
@[simp] theorem State.ofReset_mem (cfg : Config) : (State.ofReset cfg).mem = [] := rfl
@[simp] theorem State.ofReset_rom (cfg : Config) : (State.ofReset cfg).rom = [] := rfl
@[simp] theorem State.ofReset_trashed (cfg : Config) : (State.ofReset cfg).trashed = Flags.none := rfl
@[simp] theorem State.ofReset_irq (cfg : Config) : (State.ofReset cfg).irq = [] := rfl
@[simp] theorem State.ofReset_out (cfg : Config) : (State.ofReset cfg).out = [] := rfl
@[simp] theorem State.ofReset_draws (cfg : Config) : (State.ofReset cfg).draws = 0 := rfl
@[simp] theorem State.ofReset_cfg (cfg : Config) : (State.ofReset cfg).cfg = cfg := rfl

@[simp] theorem State.reset_d : State.reset.d = Quad.all 0 := rfl
@[simp] theorem State.reset_x : State.reset.x = Quad.all 0 := rfl
@[simp] theorem State.reset_y : State.reset.y = Quad.all 0 := rfl
@[simp] theorem State.reset_pc : State.reset.pc = 0 := rfl
@[simp] theorem State.reset_c : State.reset.c = false := rfl
@[simp] theorem State.reset_z : State.reset.z = false := rfl
@[simp] theorem State.reset_n : State.reset.n = false := rfl
@[simp] theorem State.reset_v : State.reset.v = false := rfl
@[simp] theorem State.reset_ie : State.reset.ie = false := rfl
@[simp] theorem State.reset_halted : State.reset.halted = false := rfl
@[simp] theorem State.reset_haltCode : State.reset.haltCode = 0 := rfl
@[simp] theorem State.reset_mem : State.reset.mem = [] := rfl
@[simp] theorem State.reset_rom : State.reset.rom = [] := rfl
@[simp] theorem State.reset_trashed : State.reset.trashed = Flags.none := rfl
@[simp] theorem State.reset_irq : State.reset.irq = [] := rfl
@[simp] theorem State.reset_out : State.reset.out = [] := rfl
@[simp] theorem State.reset_draws : State.reset.draws = 0 := rfl
@[simp] theorem State.reset_cfg : State.reset.cfg = Config.default := rfl

/-! ### Registers read after a write -/

@[simp] theorem Quad.get_set {α : Type} (q : Quad α) (i j : Idx) (a : α) :
    (q.set i a).get j = if j = i then a else q.get j := by
  cases i <;> cases j <;> rfl

theorem Quad.ext_get {α : Type} {q r : Quad α} (h : ∀ i, q.get i = r.get i) : q = r := by
  cases q
  cases r
  have h0 := h .i0
  have h1 := h .i1
  have h2 := h .i2
  have h3 := h .i3
  simp only [Quad.get] at h0 h1 h2 h3
  subst h0 h1 h2 h3
  rfl

@[simp] theorem Quad.set_get {α : Type} (q : Quad α) (i : Idx) : q.set i (q.get i) = q := by
  cases i <;> rfl

theorem getLsbD_mkAddr (b : Byte) (w : Word) (i : Nat) :
    (mkAddr b w).getLsbD i = if i < 16 then w.getLsbD i else b.getLsbD (i - 16) :=
  BitVec.getLsbD_append

@[simp] theorem offsetOf_mkAddr (b : Byte) (w : Word) : offsetOf (mkAddr b w) = w := by
  apply BitVec.eq_of_getLsbD_eq
  intro i hi
  simp [offsetOf, getLsbD_mkAddr, hi]

@[simp] theorem bankOf_mkAddr (b : Byte) (w : Word) : bankOf (mkAddr b w) = b := by
  apply BitVec.eq_of_getLsbD_eq
  intro i hi
  simp [bankOf, getLsbD_mkAddr, hi]

@[simp] theorem mkAddr_bankOf_offsetOf (a : Addr) : mkAddr (bankOf a) (offsetOf a) = a := by
  apply BitVec.eq_of_getLsbD_eq
  intro i hi
  rw [getLsbD_mkAddr]
  split
  · simp [offsetOf, *]
  · simp [bankOf, show i - 16 < 8 by omega, show 16 + (i - 16) = i by omega]

@[simp] theorem State.xy_setXY (s : State) (i j : Idx) (a : Addr) :
    (s.setXY i a).xy j = if j = i then a else s.xy j := by
  unfold State.xy
  simp only [State.setXY_y, State.setXY_x, Quad.get_set]
  split <;> simp

/-- Reading a register after `wr16` of a register (R22, R27, R28). -/
theorem State.readG_writeG (s : State) (g h : Gpr) (w : Word) :
    (s.writeG g w).readG h =
      if h = g then (match g with | .y _ => (loByte w).setWidth 16 | _ => w) else s.readG h := by
  cases g <;> cases h <;> simp [State.writeG, State.readG] <;> split <;> simp_all

@[simp] theorem State.readG_writeG_of_ne (s : State) {g h : Gpr} (w : Word) (hne : h ≠ g) :
    (s.writeG g w).readG h = s.readG h := by
  simp [State.readG_writeG, hne]

@[simp] theorem Quad.set_set {α : Type} (q : Quad α) (i : Idx) (a b : α) : (q.set i a).set i b = q.set i b := by
  cases i <;> rfl

@[simp] theorem State.setXY_setXY (s : State) (i : Idx) (a b : Addr) : (s.setXY i a).setXY i b = s.setXY i b := by
  simp [State.setXY]

/-- Reading a register after a pair has been written (R23). -/
theorem State.readG_setXY (s : State) (i : Idx) (a : Addr) (g : Gpr) :
    (s.setXY i a).readG g =
      if g = .x i then offsetOf a else if g = .y i then (bankOf a).setWidth 16 else s.readG g := by
  cases g <;> simp [State.readG] <;> split <;> simp_all

/-! ### Accessors after an update -/

@[simp] theorem State.setFlags_readG (s : State) (f : Flags) (g : Gpr) : (s.setFlags f).readG g = s.readG g := rfl
@[simp] theorem State.setFlags_xy (s : State) (f : Flags) (i : Idx) : (s.setFlags f).xy i = s.xy i := rfl
@[simp] theorem State.setFlags_nextPc (s : State) (f : Flags) (k : Nat) : (s.setFlags f).nextPc k = s.nextPc k := rfl
@[simp] theorem State.setFlags_kind (s : State) (f : Flags) (acc : Access) (b : Addr) : (s.setFlags f).kind acc b = s.kind acc b := rfl
@[simp] theorem State.setFlags_wordOk (s : State) (f : Flags) (b : Addr) : (s.setFlags f).wordOk b = s.wordOk b := rfl
@[simp] theorem State.setFlags_pcBase (s : State) (f : Flags) (len : Nat) : (s.setFlags f).pcBase len = s.pcBase len := rfl
@[simp] theorem State.setLogicFlags_readG (s : State) (w : Word) (g : Gpr) : (s.setLogicFlags w).readG g = s.readG g := rfl
@[simp] theorem State.setLogicFlags_xy (s : State) (w : Word) (i : Idx) : (s.setLogicFlags w).xy i = s.xy i := rfl
@[simp] theorem State.setLogicFlags_nextPc (s : State) (w : Word) (k : Nat) : (s.setLogicFlags w).nextPc k = s.nextPc k := rfl
@[simp] theorem State.setLogicFlags_kind (s : State) (w : Word) (acc : Access) (b : Addr) : (s.setLogicFlags w).kind acc b = s.kind acc b := rfl
@[simp] theorem State.setLogicFlags_wordOk (s : State) (w : Word) (b : Addr) : (s.setLogicFlags w).wordOk b = s.wordOk b := rfl
@[simp] theorem State.setLogicFlags_pcBase (s : State) (w : Word) (len : Nat) : (s.setLogicFlags w).pcBase len = s.pcBase len := rfl
@[simp] theorem State.writeSr_readG (s : State) (w : Word) (g : Gpr) : (s.writeSr w).readG g = s.readG g := rfl
@[simp] theorem State.writeSr_xy (s : State) (w : Word) (i : Idx) : (s.writeSr w).xy i = s.xy i := rfl
@[simp] theorem State.writeSr_nextPc (s : State) (w : Word) (k : Nat) : (s.writeSr w).nextPc k = s.nextPc k := rfl
@[simp] theorem State.writeSr_kind (s : State) (w : Word) (acc : Access) (b : Addr) : (s.writeSr w).kind acc b = s.kind acc b := rfl
@[simp] theorem State.writeSr_wordOk (s : State) (w : Word) (b : Addr) : (s.writeSr w).wordOk b = s.wordOk b := rfl
@[simp] theorem State.writeSr_pcBase (s : State) (w : Word) (len : Nat) : (s.writeSr w).pcBase len = s.pcBase len := rfl
@[simp] theorem State.setXY_nextPc (s : State) (i : Idx) (a : Addr) (k : Nat) : (s.setXY i a).nextPc k = s.nextPc k := rfl
@[simp] theorem State.setXY_kind (s : State) (i : Idx) (a : Addr) (acc : Access) (b : Addr) : (s.setXY i a).kind acc b = s.kind acc b := rfl
@[simp] theorem State.setXY_wordOk (s : State) (i : Idx) (a : Addr) (b : Addr) : (s.setXY i a).wordOk b = s.wordOk b := rfl
@[simp] theorem State.setXY_pcBase (s : State) (i : Idx) (a : Addr) (len : Nat) : (s.setXY i a).pcBase len = s.pcBase len := rfl
@[simp] theorem State.advance_readG (s : State) (k : Nat) (g : Gpr) : (s.advance k).readG g = s.readG g := rfl
@[simp] theorem State.advance_xy (s : State) (k : Nat) (i : Idx) : (s.advance k).xy i = s.xy i := rfl
@[simp] theorem State.advance_kind (s : State) (k : Nat) (acc : Access) (b : Addr) : (s.advance k).kind acc b = s.kind acc b := rfl
@[simp] theorem State.advance_wordOk (s : State) (k : Nat) (b : Addr) : (s.advance k).wordOk b = s.wordOk b := rfl
@[simp] theorem State.jump_readG (s : State) (a : Addr) (g : Gpr) : (s.jump a).readG g = s.readG g := rfl
@[simp] theorem State.jump_xy (s : State) (a : Addr) (i : Idx) : (s.jump a).xy i = s.xy i := rfl
@[simp] theorem State.jump_kind (s : State) (a : Addr) (acc : Access) (b : Addr) : (s.jump a).kind acc b = s.kind acc b := rfl
@[simp] theorem State.jump_wordOk (s : State) (a : Addr) (b : Addr) : (s.jump a).wordOk b = s.wordOk b := rfl
@[simp] theorem State.drawn_readG (s : State) (k : Nat) (g : Gpr) : (s.drawn k).readG g = s.readG g := rfl
@[simp] theorem State.drawn_xy (s : State) (k : Nat) (i : Idx) : (s.drawn k).xy i = s.xy i := rfl
@[simp] theorem State.drawn_kind (s : State) (k : Nat) (acc : Access) (b : Addr) : (s.drawn k).kind acc b = s.kind acc b := rfl
@[simp] theorem State.drawn_wordOk (s : State) (k : Nat) (b : Addr) : (s.drawn k).wordOk b = s.wordOk b := rfl
@[simp] theorem State.drawn_pcBase (s : State) (k : Nat) (len : Nat) : (s.drawn k).pcBase len = s.pcBase len := rfl
@[simp] theorem State.trashFlags_readG (s : State) (g : Gpr) : s.trashFlags.readG g = s.readG g := rfl
@[simp] theorem State.trashFlags_xy (s : State) (i : Idx) : s.trashFlags.xy i = s.xy i := rfl
@[simp] theorem State.trashFlags_nextPc (s : State) (k : Nat) : s.trashFlags.nextPc k = s.nextPc k := rfl
@[simp] theorem State.trashFlags_kind (s : State) (acc : Access) (b : Addr) : s.trashFlags.kind acc b = s.kind acc b := rfl
@[simp] theorem State.trashFlags_wordOk (s : State) (b : Addr) : s.trashFlags.wordOk b = s.wordOk b := rfl
@[simp] theorem State.trashFlags_pcBase (s : State) (len : Nat) : s.trashFlags.pcBase len = s.pcBase len := rfl
@[simp] theorem State.tick_readG (s : State) (g : Gpr) : s.tick.readG g = s.readG g := rfl
@[simp] theorem State.tick_xy (s : State) (i : Idx) : s.tick.xy i = s.xy i := rfl
@[simp] theorem State.tick_nextPc (s : State) (k : Nat) : s.tick.nextPc k = s.nextPc k := rfl
@[simp] theorem State.tick_kind (s : State) (acc : Access) (b : Addr) : s.tick.kind acc b = s.kind acc b := rfl
@[simp] theorem State.tick_wordOk (s : State) (b : Addr) : s.tick.wordOk b = s.wordOk b := rfl
@[simp] theorem State.tick_pcBase (s : State) (len : Nat) : s.tick.pcBase len = s.pcBase len := rfl
@[simp] theorem State.writeG_nextPc (s : State) (g : Gpr) (w : Word) (k : Nat) : (s.writeG g w).nextPc k = s.nextPc k := by
  simp [State.nextPc]
@[simp] theorem State.writeG_kind (s : State) (g : Gpr) (w : Word) (acc : Access) (b : Addr) : (s.writeG g w).kind acc b = s.kind acc b := by cases g <;> rfl
@[simp] theorem State.writeG_wordOk (s : State) (g : Gpr) (w : Word) (b : Addr) : (s.writeG g w).wordOk b = s.wordOk b := by cases g <;> rfl
@[simp] theorem State.writeG_pcBase (s : State) (g : Gpr) (w : Word) (len : Nat) : (s.writeG g w).pcBase len = s.pcBase len := by cases g <;> rfl
@[simp] theorem State.writeStackReg_nextPc (s : State) (r : StackReg) (w : Word) (k : Nat) : (s.writeStackReg r w).nextPc k = s.nextPc k := by
  simp [State.nextPc]
@[simp] theorem State.writeStackReg_kind (s : State) (r : StackReg) (w : Word) (acc : Access) (b : Addr) : (s.writeStackReg r w).kind acc b = s.kind acc b := by rcases r with (_ | _ | _) | _ <;> rfl
@[simp] theorem State.writeStackReg_wordOk (s : State) (r : StackReg) (w : Word) (b : Addr) : (s.writeStackReg r w).wordOk b = s.wordOk b := by rcases r with (_ | _ | _) | _ <;> rfl
@[simp] theorem State.writeStackReg_pcBase (s : State) (r : StackReg) (w : Word) (len : Nat) : (s.writeStackReg r w).pcBase len = s.pcBase len := by rcases r with (_ | _ | _) | _ <;> rfl

@[simp] theorem State.setXY_srWord (s : State) (i : Idx) (a : Addr) : (s.setXY i a).srWord = s.srWord := rfl
@[simp] theorem State.drawn_srWord (s : State) (k : Nat) : (s.drawn k).srWord = s.srWord := rfl
@[simp] theorem State.drawn_setXY (s : State) (k : Nat) (i : Idx) (a : Addr) :
    (s.setXY i a).drawn k = (s.drawn k).setXY i a := rfl
@[simp] theorem State.drawn_zero (s : State) : s.drawn 0 = s := rfl
@[simp] theorem State.drawn_drawn (s : State) (j k : Nat) : (s.drawn j).drawn k = s.drawn (j + k) := by
  simp [State.drawn, Nat.add_assoc]

end Sys2Proof.Machine
end

