-- ==== Sys2Proof/Laws/Memory.lean ====
section
/-!
SUPPORT. What memory holds after a store, and that every memory operation keeps the canonical form.
-/

namespace Sys2Proof.Machine

@[simp] theorem Memory.get?_nil (a : Nat) : Memory.get? [] a = none := rfl

/-- A byte store changes the byte at its address and no other (R54, R59). -/
@[simp] theorem Memory.get?_set (m : Memory) (a b : Nat) (v : Byte) :
    (m.set a v).get? b = if b = a then some v else m.get? b := by
  induction m with
  | nil => simp [Memory.set, Memory.get?]
  | cons cell m ih =>
    obtain ⟨k, w⟩ := cell
    unfold Memory.set
    split
    · simp [Memory.get?]
    · split
      · subst k
        by_cases h : b = a <;> simp [Memory.get?, h]
      · simp only [Memory.get?, ih]
        split <;> split <;> simp_all

theorem Memory.set_addrs (m : Memory) (a : Nat) (v : Byte) :
    ∀ k ∈ (m.set a v).map Prod.fst, k = a ∨ k ∈ m.map Prod.fst := by
  induction m with
  | nil => simp [Memory.set]
  | cons cell m ih =>
    obtain ⟨k, w⟩ := cell
    intro j hj
    unfold Memory.set at hj
    split at hj
    · simpa using hj
    · split at hj
      · rcases List.mem_cons.1 hj with h | h
        · exact .inl h
        · exact .inr (List.mem_cons_of_mem _ h)
      · rcases List.mem_cons.1 hj with h | h
        · exact .inr (List.mem_cons.2 (.inl h))
        · rcases ih j h with h | h
          · exact .inl h
          · exact .inr (List.mem_cons_of_mem _ h)

theorem Memory.set_pairwise {m : Memory} (h : (m.map Prod.fst).Pairwise (· < ·)) (a : Nat) (v : Byte) :
    ((m.set a v).map Prod.fst).Pairwise (· < ·) := by
  induction m with
  | nil => simp [Memory.set]
  | cons cell m ih =>
    obtain ⟨k, w⟩ := cell
    simp only [List.map_cons, List.pairwise_cons] at h
    unfold Memory.set
    split
    · rename_i hlt
      simp only [List.map_cons, List.pairwise_cons]
      refine ⟨?_, h⟩
      intro j hj
      rcases List.mem_cons.1 hj with rfl | hj
      · exact hlt
      · exact Nat.lt_trans hlt (h.1 j hj)
    · split
      · subst k
        simpa using h
      · simp only [List.map_cons, List.pairwise_cons]
        refine ⟨?_, ih h.2⟩
        intro j hj
        rcases Memory.set_addrs m a v j hj with rfl | hj
        · omega
        · exact h.1 j hj

/-- A byte store at an address of the 24-bit space keeps the canonical form. -/
theorem Memory.wf_set {m : Memory} (h : m.wf) {a : Nat} (ha : a < 2 ^ 24) (v : Byte) : (m.set a v).wf := by
  refine ⟨Memory.set_pairwise h.1 a v, ?_⟩
  intro c hc
  rcases Memory.set_addrs m a v c.1 (List.mem_map_of_mem hc) with h' | h'
  · omega
  · obtain ⟨c', hc', he⟩ := List.mem_map.1 h'
    rw [← he]
    exact h.2 c' hc'

/-- RAM and the ROM image after reset are in canonical form. -/
theorem State.reset_mem_wf : State.reset.mem.wf ∧ State.reset.rom.wf := by
  simp [Memory.wf]

/-- Putting a byte from outside keeps the canonical form. -/
theorem State.putByte_wf {s : State} (h : s.mem.wf ∧ s.rom.wf) (acc : Access) (a : Addr) (v : Byte) :
    (s.putByte acc a v).mem.wf ∧ (s.putByte acc a v).rom.wf := by
  unfold State.putByte
  split
  · exact ⟨Memory.wf_set h.1 a.isLt v, h.2⟩
  · exact ⟨h.1, Memory.wf_set h.2 a.isLt v⟩
  · exact h
  · exact h

/-- Putting bytes from outside, as `placed` does, keeps the canonical form. -/
theorem State.putBytes_wf {s : State} (h : s.mem.wf ∧ s.rom.wf) (acc : Access) (a : Addr) (bs : List Byte) :
    (State.putBytes acc a bs s).mem.wf ∧ (State.putBytes acc a bs s).rom.wf := by
  induction bs generalizing s a with
  | nil => exact h
  | cons b bs ih => exact ih (State.putByte_wf h acc a b) _

/-- The even addresses, as `evenAddr` and as a remainder. -/
theorem evenAddr_iff (a : Addr) : evenAddr a = true ↔ a.toNat % 2 = 0 := by
  simp only [evenAddr, BitVec.getLsbD, Nat.testBit_zero, Bool.not_eq_true', decide_eq_false_iff_not]
  omega

/-- The word that has a byte starts at the even address at or below the byte's. -/
theorem wordBase_toNat (a : Addr) : (wordBase a).toNat = a.toNat / 2 * 2 := by
  unfold wordBase
  split
  · have := (evenAddr_iff a).1 ‹_›
    omega
  · have h : ¬ a.toNat % 2 = 0 := fun e => ‹¬ _› ((evenAddr_iff a).2 e)
    have := a.isLt
    rw [BitVec.toNat_sub]
    simp
    omega

@[simp] theorem evenAddr_wordBase (a : Addr) : evenAddr (wordBase a) = true := by
  rw [evenAddr_iff, wordBase_toNat]
  omega

theorem wordBase_of_even {a : Addr} (h : a.toNat % 2 = 0) : wordBase a = a := by
  unfold wordBase
  rw [if_pos ((evenAddr_iff a).2 h)]

/-- A word put together from its bytes in memory is that word (R54). -/
@[simp] theorem wordOfBytes_lower_upper (o : ByteOrder) (v : Word) :
    wordOfBytes o (lowerByte o v) (upperByte o v) = v := by
  have h : hiByte v ++ loByte v = v := by
    apply BitVec.eq_of_getLsbD_eq
    intro i hi
    rw [BitVec.getLsbD_append]
    split
    · simp [loByte, *]
    · simp [hiByte, show i - 8 < 8 by omega, show 8 + (i - 8) = i by omega]
  cases o <;> exact h

/-! ### The memory map -/

/-- The default map (R51, decision D33). -/
theorem kindIn_defaultMap (acc : Access) (a : Addr) :
    kindIn Config.defaultMap acc a =
      if a.toNat < 0x200000 then .rom
      else if a.toNat < 0x800000 then .ram
      else if a.toNat < 0xFF0000 then .none
      else .device := by
  have := a.isLt
  by_cases h1 : a.toNat ≤ 0xFFFFF
  · rw [if_pos (by omega)]
    cases acc <;> simp [kindIn, Config.defaultMap, inRegion, h1, Region.kind]
  by_cases h2 : a.toNat ≤ 0x1FFFFF
  · rw [if_pos (by omega)]
    cases acc <;>
      simp [kindIn, Config.defaultMap, inRegion, List.find?, h1, h2, show 0x100000 ≤ a.toNat by omega, Region.kind]
  by_cases h3 : a.toNat ≤ 0x7FFFFF
  · rw [if_neg (by omega), if_pos (by omega)]
    cases acc <;>
      simp [kindIn, Config.defaultMap, inRegion, List.find?, h1, h2, h3, show 0x200000 ≤ a.toNat by omega, Region.kind]
  by_cases h4 : 0xFF0000 ≤ a.toNat
  · rw [if_neg (by omega), if_neg (by omega), if_neg (by omega)]
    cases acc <;>
      simp [kindIn, Config.defaultMap, inRegion, List.find?, h1, h2, h3, h4, show a.toNat ≤ 0xFFFFFF by omega,
        Region.kind]
  · rw [if_neg (by omega), if_neg (by omega), if_pos (by omega)]
    simp [kindIn, Config.defaultMap, inRegion, List.find?, h1, h2, h3, h4]

/-! ### Equal memories -/

/-- Bytes above the first address of a memory whose addresses all lie above are not listed. -/
theorem Memory.get?_of_lt {m : Memory} {a : Nat} (h : ∀ k ∈ m.map Prod.fst, a < k) : m.get? a = none := by
  induction m with
  | nil => rfl
  | cons cell m ih =>
    obtain ⟨k, w⟩ := cell
    have hk : a < k := h k (by simp)
    unfold Memory.get?
    rw [if_neg (by omega)]
    exact ih fun j hj => h j (List.mem_cons_of_mem _ hj)

/-- Two memories in canonical form that hold the same bytes are the same list. -/
theorem Memory.ext_get? {m m' : Memory} (h : m.wf) (h' : m'.wf) (e : ∀ a, m.get? a = m'.get? a) : m = m' := by
  induction m generalizing m' with
  | nil =>
    cases m' with
    | nil => rfl
    | cons cell m' =>
      obtain ⟨k, w⟩ := cell
      simpa [Memory.get?] using e k
  | cons cell m ih =>
    obtain ⟨k, w⟩ := cell
    cases m' with
    | nil => simpa [Memory.get?] using (e k).symm
    | cons cell' m' =>
      obtain ⟨k', w'⟩ := cell'
      have hp := List.pairwise_cons.1 h.1
      have hp' := List.pairwise_cons.1 h'.1
      have hk : k = k' := by
        rcases Nat.lt_trichotomy k k' with hlt | rfl | hlt
        · have : Memory.get? ((k', w') :: m') k = none := Memory.get?_of_lt fun j hj => by
            rcases List.mem_cons.1 hj with rfl | hj
            · exact hlt
            · exact Nat.lt_trans hlt (hp'.1 j hj)
          have h1 := e k
          rw [this] at h1
          simp [Memory.get?] at h1
        · rfl
        · have : Memory.get? ((k, w) :: m) k' = none := Memory.get?_of_lt fun j hj => by
            rcases List.mem_cons.1 hj with rfl | hj
            · exact hlt
            · exact Nat.lt_trans hlt (hp.1 j hj)
          have h1 := e k'
          rw [this] at h1
          simp [Memory.get?] at h1
      subst hk
      have hw : w = w' := by simpa [Memory.get?] using e k
      subst hw
      congr 1
      refine ih ⟨hp.2, fun c hc => h.2 c (List.mem_cons_of_mem _ hc)⟩
        ⟨hp'.2, fun c hc => h'.2 c (List.mem_cons_of_mem _ hc)⟩ fun a => ?_
      have ea := e a
      simp only [Memory.get?] at ea
      split at ea
      · subst a
        rw [Memory.get?_of_lt hp.1, Memory.get?_of_lt hp'.1]
      · exact ea

end Sys2Proof.Machine
end

