-- ==== Sys2Proof/Laws/Ops.lean ====
section
/-!
SUPPORT. What each shared operation of the machine answers, once for each: `op … = .next r` exactly when the accesses
complete and `r` is what the rule gives. Later proofs cite these and do not unfold the operations.
-/

namespace Sys2Proof.Machine

open Sys2Proof.Safety

/-! ### Addresses two, four and six bytes on -/

theorem addr_add22 (a : Addr) : a + 2#24 + 2#24 = a + 4#24 := by rw [BitVec.add_assoc]; rfl
theorem addr_add24 (a : Addr) : a + 2#24 + 4#24 = a + 6#24 := by rw [BitVec.add_assoc]; rfl
theorem addr_sub22 (a : Addr) : a - 2#24 - 2#24 = a - 4#24 := by rw [BitVec.sub_sub]; rfl
theorem addr_sub42 (a : Addr) : a - 4#24 - 2#24 = a - 6#24 := by rw [BitVec.sub_sub]; rfl

/-! ### Sequencing -/

@[simp] theorem Res.bind_next {α β : Type} (a : α) (k : α → Res β) : Res.bind (.next a) k = k a := rfl
@[simp] theorem Res.bind_refused {α β : Type} (e : Refusal) (k : α → Res β) : Res.bind (.refused e) k = .refused e := rfl

/-- A sequence answers a value only if both its parts do. -/
theorem Res.bind_eq_next {α β : Type} {r : Res α} {k : α → Res β} {b : β} :
    Res.bind r k = .next b ↔ ∃ a, r = .next a ∧ k a = .next b := by
  cases r <;> simp [Res.bind]

/-- A sequence is refused if its first part is, or if that answers a value of which the second part is. -/
theorem Res.bind_eq_refused {α β : Type} {r : Res α} {k : α → Res β} {e : Refusal} :
    Res.bind r k = .refused e ↔ r = .refused e ∨ ∃ a, r = .next a ∧ k a = .refused e := by
  cases r <;> simp [Res.bind]

/-! ### What decides whether an access completes -/

/-- The machine's test of an address is that of claims (R56). -/
theorem State.wordOk_iff (s : State) (a : Addr) : s.wordOk a = true ↔ Aligned s a := by
  simp [State.wordOk, Aligned, evenAddr_iff]

theorem aligned_or_misaligned (s : State) (a : Addr) :
    Aligned s a ∨ (a.toNat % 2 = 1 ∧ s.cfg.misaligned = .refuse) := by
  unfold Aligned
  cases s.cfg.misaligned
  · rcases Nat.mod_two_eq_zero_or_one a.toNat with h | h
    · exact .inl (.inl h)
    · exact .inr ⟨h, rfl⟩
  · exact .inl (.inr rfl)

theorem not_misaligned {s : State} {a : Addr} (h : Aligned s a) :
    ¬ (a.toNat % 2 = 1 ∧ s.cfg.misaligned = .refuse) := by
  rintro ⟨h1, h2⟩
  rcases h with h | h
  · omega
  · rw [h2] at h
    cases h

/-- The kind of an address depends on the configuration alone. -/
theorem State.kind_congr {s t : State} (h : t.cfg = s.cfg) (acc : Access) (a : Addr) : t.kind acc a = s.kind acc a := by
  unfold State.kind
  rw [h]

/-- Whether an access completes, and why it does not, depends on the configuration alone. -/
theorem access_congr {s t : State} (h : t.cfg = s.cfg) (a : Addr) :
    (WordReadable t a ↔ WordReadable s a) ∧ (WordWritable t a ↔ WordWritable s a) ∧
      (ByteReadable t a ↔ ByteReadable s a) ∧ (ByteWritable t a ↔ ByteWritable s a) ∧
      readStop t a = readStop s a ∧ writeStop t a = writeStop s a ∧ byteReadStop t a = byteReadStop s a ∧
      byteWriteStop t a = byteWriteStop s a := by
  unfold WordReadable WordWritable ByteReadable ByteWritable readStop writeStop byteReadStop byteWriteStop Aligned State.kind
  rw [h]
  exact ⟨Iff.rfl, Iff.rfl, Iff.rfl, Iff.rfl, rfl, rfl, rfl, rfl⟩

@[simp] theorem firstStop_nil : firstStop [] = none := rfl
@[simp] theorem firstStop_some (e : Refusal) (l : List (Option Refusal)) : firstStop (some e :: l) = some e := rfl
@[simp] theorem firstStop_none (l : List (Option Refusal)) : firstStop (none :: l) = firstStop l := rfl

/-- The first stop of a sequence is that of its first access, or, where that completes, that of the others. -/
theorem firstStop_cons_eq_some {a : Option Refusal} {l : List (Option Refusal)} {e : Refusal} :
    firstStop (a :: l) = some e ↔ a = some e ∨ a = none ∧ firstStop l = some e := by
  cases a <;> simp

/-- A sequence has no stop exactly where none of its accesses has one. -/
theorem firstStop_cons_eq_none {a : Option Refusal} {l : List (Option Refusal)} :
    firstStop (a :: l) = none ↔ a = none ∧ firstStop l = none := by
  cases a <;> simp

theorem byteReadStop_eq_none (s : State) (a : Addr) : byteReadStop s a = none ↔ ByteReadable s a := by
  unfold byteReadStop ByteReadable
  split <;> simp_all

theorem byteWriteStop_eq_none (s : State) (a : Addr) : byteWriteStop s a = none ↔ ByteWritable s a := by
  unfold byteWriteStop ByteWritable
  cases s.kind .store a <;> simp

/-- A word read completes exactly where nothing refuses it. -/
theorem readStop_eq_none (s : State) (a : Addr) : readStop s a = none ↔ WordReadable s a := by
  unfold readStop WordReadable
  rcases aligned_or_misaligned s a with h | h
  · simp [(not_misaligned h), h, firstStop_cons_eq_none, byteReadStop_eq_none, ByteReadable]
  · simp only [h, and_self, if_true, reduceCtorEq, false_iff, not_and]
    exact fun h' => absurd h (not_misaligned h')

/-- A word store completes exactly where nothing refuses it. -/
theorem writeStop_eq_none (s : State) (a : Addr) : writeStop s a = none ↔ WordWritable s a := by
  unfold writeStop WordWritable
  rcases aligned_or_misaligned s a with h | h
  · simp [(not_misaligned h), h, firstStop_cons_eq_none, byteWriteStop_eq_none]
  · simp only [h, and_self, if_true, reduceCtorEq, false_iff, not_and]
    exact fun h' => absurd h (not_misaligned h')

/-! ### Reads of flags -/

/-- The machine's test of a read of flags is that of claims (R44). -/
theorem State.flagsOk_iff (s : State) (need : Flags) : s.flagsOk need = true ↔ FlagsReadable s need := by
  simp only [State.flagsOk, FlagsReadable, Bool.or_eq_true, beq_iff_eq, Bool.not_eq_true', Bool.or_eq_false_iff,
    Bool.and_eq_false_iff, and_assoc]

/-- An instruction that reads flags which can be read goes on (R44). -/
theorem readingFlags_ok {α : Type} {need : Flags} {s : State} (h : FlagsReadable s need) (r : Res α) :
    readingFlags need s r = r :=
  if_pos ((s.flagsOk_iff need).2 h)

/-- An instruction that reads a flag which cannot be read is refused (R44, decision D24). -/
theorem readingFlags_refused {α : Type} {need : Flags} {s : State} (h : ¬ FlagsReadable s need) (r : Res α) :
    readingFlags need s r = .refused .trashedFlag :=
  if_neg (mt (s.flagsOk_iff need).1 h)

/-- What an instruction that reads flags answers (R44). -/
theorem readingFlags_eq_next {α : Type} {need : Flags} {s : State} {r : Res α} {a : α} :
    readingFlags need s r = .next a ↔ FlagsReadable s need ∧ r = .next a := by
  by_cases h : FlagsReadable s need
  · simp [readingFlags_ok h, h]
  · simp [readingFlags_refused h, h]

/-- When an instruction that reads flags is refused, and why (R44, decision D24). -/
theorem readingFlags_eq_refused {α : Type} {need : Flags} {s : State} {r : Res α} {e : Refusal} :
    readingFlags need s r = .refused e ↔
      (¬ FlagsReadable s need ∧ e = .trashedFlag) ∨ (FlagsReadable s need ∧ r = .refused e) := by
  by_cases h : FlagsReadable s need
  · simp [readingFlags_ok h, h]
  · simp [readingFlags_refused h, h, eq_comm]

/-- An instruction that reads no flag is not refused for one. -/
@[simp] theorem FlagsReadable_none (s : State) : FlagsReadable s ⟨false, false, false, false⟩ := by
  simp [FlagsReadable]

/-! ### Kinds of access and what the bytes of a word are -/

/-- The second byte of a word is at the next address. -/
theorem wordBase_succ_toNat (a : Addr) : (wordBase a + 1).toNat = (wordBase a).toNat + 1 := by
  have := wordBase_toNat a
  have := a.isLt
  rw [BitVec.toNat_add]
  simp
  omega

theorem ordered_eq (s : State) (lower upper : Byte) : ordered s lower upper = wordOfBytes s.cfg.byteOrder lower upper := by
  unfold ordered
  cases s.cfg.byteOrder <;> rfl

theorem lowerOf_eq (s : State) (v : Word) : lowerOf s v = lowerByte s.cfg.byteOrder v := by
  unfold lowerOf
  cases s.cfg.byteOrder <;> rfl

theorem upperOf_eq (s : State) (v : Word) : upperOf s v = upperByte s.cfg.byteOrder v := by
  unfold upperOf
  cases s.cfg.byteOrder <;> rfl

@[simp] theorem readStop_drawn (s : State) (j : Nat) (a : Addr) : readStop (s.drawn j) a = readStop s a := rfl
@[simp] theorem readStop_setXY (s : State) (i : Idx) (b a : Addr) : readStop (s.setXY i b) a = readStop s a := rfl

/-! ### Reads -/

/-- How many values a byte read draws: one at a device (R52). -/
def byteDraws (s : State) (a : Addr) : Nat := if s.kind .load a = .device then 1 else 0

/-- How many values a word read draws: one where a byte of the word is a device's (R52, R67). -/
def drawCount (s : State) (a : Addr) : Nat :=
  if s.kind .load (wordBase a) = .device ∨ s.kind .load (wordBase a + 1) = .device then 1 else 0

theorem byteDrawsAfter_eq (s : State) (k : Nat) (a : Addr) : byteDrawsAfter s k a = k + byteDraws s a := by
  unfold byteDrawsAfter byteDraws
  split <;> simp

theorem drawsAfter_eq (s : State) (k : Nat) (a : Addr) : drawsAfter s k a = k + drawCount s a := by
  unfold drawsAfter drawCount
  split <;> simp

@[simp] theorem wordAt_drawn (s : State) (j k : Nat) (a : Addr) : wordAt (s.drawn j) k a = wordAt s k a := rfl
@[simp] theorem wordAt_setXY (s : State) (i : Idx) (b : Addr) (k : Nat) (a : Addr) :
    wordAt (s.setXY i b) k a = wordAt s k a := rfl
@[simp] theorem drawCount_drawn (s : State) (j : Nat) (a : Addr) : drawCount (s.drawn j) a = drawCount s a := rfl
@[simp] theorem drawCount_setXY (s : State) (i : Idx) (b : Addr) (a : Addr) :
    drawCount (s.setXY i b) a = drawCount s a := rfl
@[simp] theorem readable_drawn (s : State) (j : Nat) (a : Addr) : WordReadable (s.drawn j) a ↔ WordReadable s a := Iff.rfl
@[simp] theorem readable_setXY (s : State) (i : Idx) (b a : Addr) : WordReadable (s.setXY i b) a ↔ WordReadable s a := Iff.rfl
@[simp] theorem writable_setXY (s : State) (i : Idx) (b a : Addr) : WordWritable (s.setXY i b) a ↔ WordWritable s a := Iff.rfl
@[simp] theorem drawn_ramByte (s : State) (k : Nat) (a : Addr) : (s.drawn k).ramByte a = s.ramByte a := rfl
@[simp] theorem drawn_romByte (s : State) (k : Nat) (a : Addr) : (s.drawn k).romByte a = s.romByte a := rfl
@[simp] theorem byteAt_drawn (s : State) (j k : Nat) (a : Addr) : byteAt (s.drawn j) k a = byteAt s k a := rfl

/-- What a byte read answers (R52, R59). -/
theorem readByte_eq_next (a : Addr) (s : State) (r : Byte × State) :
    readByte a s = .next r ↔ ByteReadable s a ∧ r = (byteAt s s.draws a, s.drawn (byteDraws s a)) := by
  unfold readByte readByteAs ByteReadable byteAt memByte byteDraws
  cases hk : s.kind .load a <;> simp [eq_comm]

theorem readByte_next {s : State} {a : Addr} (h : ByteReadable s a) :
    readByte a s = .next (byteAt s s.draws a, s.drawn (byteDraws s a)) :=
  (readByte_eq_next a s _).2 ⟨h, rfl⟩

/-- When a byte read is refused, and why (R52). -/
theorem readByte_eq_refused (a : Addr) (s : State) (e : Refusal) :
    readByte a s = .refused e ↔ byteReadStop s a = some e := by
  unfold readByte readByteAs byteReadStop
  cases s.kind .load a <;> simp

/-- A word read is one access of a device, or the reads of its two bytes (R52, R54, R67). -/
theorem readWord_aligned {s : State} {a : Addr} (h : Aligned s a) :
    readWord a s =
      if DeviceWord s .load a then .next (Config.deviceWord s.draws (wordBase a), s.drawn 1)
      else
        Res.bind (readByte (wordBase a) s) fun lower =>
          Res.bind (readByte (wordBase a + 1) lower.2) fun upper =>
            .next (wordOfBytes s.cfg.byteOrder lower.1 upper.1, upper.2) := by
  simp only [readWord, readWordAs, if_pos ((State.wordOk_iff s a).2 h), State.deviceWordAt, Bool.and_eq_true, beq_iff_eq]
  rfl

/-- What a word read answers (R52, R54, R56). -/
theorem readWord_eq_next (a : Addr) (s : State) (r : Word × State) :
    readWord a s = .next r ↔ WordReadable s a ∧ r = (wordAt s s.draws a, s.drawn (drawCount s a)) := by
  by_cases h : Aligned s a
  · rw [readWord_aligned h]
    unfold WordReadable wordAt drawCount DeviceWord
    generalize wordBase a + 1 = b1
    cases hb : s.kind .load (wordBase a) <;> cases hc : s.kind .load b1 <;>
      simp [readByte, readByteAs, hb, hc, h, ordered_eq, byteAt, memByte, eq_comm]
  · rw [readWord, readWordAs, if_neg (mt (State.wordOk_iff s a).1 h)]
    simp [WordReadable, h]

/-- A word read of a readable address (R54). -/
theorem readWord_next {s : State} {a : Addr} (h : WordReadable s a) :
    readWord a s = .next (wordAt s s.draws a, s.drawn (drawCount s a)) :=
  (readWord_eq_next a s _).2 ⟨h, rfl⟩

/-- When a word read is refused, and why (R52, R56). -/
theorem readWord_eq_refused (a : Addr) (s : State) (e : Refusal) :
    readWord a s = .refused e ↔ readStop s a = some e := by
  unfold readStop
  rcases aligned_or_misaligned s a with h | h
  · rw [readWord_aligned h, if_neg (not_misaligned h)]
    unfold DeviceWord
    generalize wordBase a + 1 = b1
    cases hb : s.kind .load (wordBase a) <;> cases hc : s.kind .load b1 <;>
      simp [readByte, readByteAs, hb, hc, byteReadStop]
  · rw [readWord, readWordAs, if_neg (fun h' => not_misaligned ((State.wordOk_iff s a).1 h') h), if_pos h]
    simp

/-- A word read for any kind of access whose bytes are in RAM or ROM (R52, R54). -/
theorem readWordAs_memory {acc : Access} {a : Addr} {s : State} (h : Aligned s a)
    (hb : s.kind acc (wordBase a) = .ram ∨ s.kind acc (wordBase a) = .rom)
    (hc : s.kind acc (wordBase a + 1) = .ram ∨ s.kind acc (wordBase a + 1) = .rom) :
    readWordAs acc a s = .next (ordered s (memByte s acc (wordBase a)) (memByte s acc (wordBase a + 1)), s) := by
  unfold readWordAs State.deviceWordAt
  rw [if_pos ((State.wordOk_iff s a).2 h)]
  generalize wordBase a + 1 = b1 at *
  rcases hb with hb | hb <;> rcases hc with hc | hc <;> simp [readByteAs, memByte, ordered_eq, hb, hc]

/-- A byte read changes nothing but the count of free values drawn (R52). -/
theorem readByteAs_drawn {acc : Access} {a : Addr} {s : State} {r : Byte × State} (h : readByteAs acc a s = .next r) :
    ∃ j, r.2 = s.drawn j := by
  unfold readByteAs at h
  split at h <;> cases h
  · exact ⟨0, rfl⟩
  · exact ⟨0, rfl⟩
  · exact ⟨1, rfl⟩

/-- A word read changes nothing but the count of free values drawn (R52). -/
theorem readWordAs_drawn {acc : Access} {a : Addr} {s : State} {r : Word × State} (h : readWordAs acc a s = .next r) :
    Aligned s a ∧ ∃ j, r.2 = s.drawn j := by
  simp only [readWordAs] at h
  split at h
  · refine ⟨(State.wordOk_iff s a).1 ‹_›, ?_⟩
    split at h
    · cases h
      exact ⟨1, rfl⟩
    · simp only [Res.bind_eq_next] at h
      obtain ⟨lower, hl, upper, hu, h⟩ := h
      obtain ⟨i, hi⟩ := readByteAs_drawn hl
      obtain ⟨j, hj⟩ := readByteAs_drawn hu
      cases h
      exact ⟨i + j, by simp [hj, hi]⟩
  · cases h

/-- What a read of a 24-bit value answers (R58). -/
theorem read24_eq_next (a : Addr) (s : State) (r : Addr × State) :
    read24 a s = .next r ↔
      (WordReadable s a ∧ WordReadable s (a + 2)) ∧
        r = (mkAddr (loByte (wordAt s s.draws a)) (wordAt s (drawsAfter s s.draws a) (a + 2)),
          s.drawn (drawCount s a + drawCount s (a + 2))) := by
  simp only [read24, Res.bind_eq_next, readWord_eq_next, drawsAfter_eq]
  constructor
  · rintro ⟨hi, ⟨h1, rfl⟩, lo, ⟨h2, rfl⟩, h⟩
    simp only [wordAt_drawn, State.drawn_draws, State.drawn_drawn] at h
    exact ⟨⟨h1, h2⟩, (by injection h with h; exact h.symm)⟩
  · rintro ⟨⟨h1, h2⟩, rfl⟩
    exact ⟨_, ⟨h1, rfl⟩, _, ⟨h2, rfl⟩, by simp⟩

/-- When a read of a 24-bit value is refused, and why (R52, R56, R58): as the first word whose read is. -/
theorem read24_eq_refused (a : Addr) (s : State) (e : Refusal) :
    read24 a s = .refused e ↔ firstStop [readStop s a, readStop s (a + 2)] = some e := by
  simp only [read24, Res.bind_eq_refused, readWord_eq_refused, readWord_eq_next, firstStop_cons_eq_some, firstStop_nil,
    readStop_eq_none]
  constructor
  · rintro (h | ⟨r, ⟨h, rfl⟩, h' | ⟨_, _, h'⟩⟩)
    · exact .inl h
    · exact .inr ⟨h, .inl h'⟩
    · cases h'
  · rintro (h | ⟨h, h' | ⟨_, h'⟩⟩)
    · exact .inl h
    · exact .inr ⟨_, ⟨h, rfl⟩, .inl h'⟩
    · cases h'

/-! ### Stores -/

/-- RAM after the byte `v` is stored at `a`, if the address is RAM for stores. -/
def State.memStored (s : State) (m : Memory) (a : Addr) (v : Byte) : Memory :=
  if s.kind .store a = .ram then m.set a.toNat v else m

@[simp] theorem State.memStored_get? (s : State) (m : Memory) (a : Addr) (v : Byte) (k : Nat) :
    (s.memStored m a v).get? k = if k = a.toNat ∧ s.kind .store a = .ram then some v else m.get? k := by
  unfold State.memStored
  split <;> simp [*]

theorem State.memStored_wf (s : State) {m : Memory} (h : m.wf) (a : Addr) (v : Byte) : (s.memStored m a v).wf := by
  unfold State.memStored
  split
  · exact Memory.wf_set h a.isLt v
  · exact h

/-- The state after the word `v` is stored at a writable address `a` (R52, R54). -/
def State.storedWord (s : State) (a : Addr) (v : Word) : State :=
  { s with
    mem := s.memStored (s.memStored s.mem (wordBase a) (lowerOf s v)) (wordBase a + 1) (upperOf s v)
    out := outAfter s a v s.out }

/-- The state after the byte `v` is stored at a writable address `a` (R52, R59). -/
def State.storedByte (s : State) (a : Addr) (v : Byte) : State :=
  { s with
    mem := s.memStored s.mem a v
    out := if s.kind .store a = .device then .byte a v :: s.out else s.out }

@[simp] theorem State.storedWord_d (s : State) (a : Addr) (v : Word) : (s.storedWord a v).d = s.d := rfl
@[simp] theorem State.storedWord_x (s : State) (a : Addr) (v : Word) : (s.storedWord a v).x = s.x := rfl
@[simp] theorem State.storedWord_y (s : State) (a : Addr) (v : Word) : (s.storedWord a v).y = s.y := rfl
@[simp] theorem State.storedWord_pc (s : State) (a : Addr) (v : Word) : (s.storedWord a v).pc = s.pc := rfl
@[simp] theorem State.storedWord_c (s : State) (a : Addr) (v : Word) : (s.storedWord a v).c = s.c := rfl
@[simp] theorem State.storedWord_z (s : State) (a : Addr) (v : Word) : (s.storedWord a v).z = s.z := rfl
@[simp] theorem State.storedWord_n (s : State) (a : Addr) (v : Word) : (s.storedWord a v).n = s.n := rfl
@[simp] theorem State.storedWord_v (s : State) (a : Addr) (v : Word) : (s.storedWord a v).v = s.v := rfl
@[simp] theorem State.storedWord_ie (s : State) (a : Addr) (v : Word) : (s.storedWord a v).ie = s.ie := rfl
@[simp] theorem State.storedWord_halted (s : State) (a : Addr) (v : Word) : (s.storedWord a v).halted = s.halted := rfl
@[simp] theorem State.storedWord_haltCode (s : State) (a : Addr) (v : Word) : (s.storedWord a v).haltCode = s.haltCode := rfl
@[simp] theorem State.storedWord_mem (s : State) (a : Addr) (v : Word) :
    (s.storedWord a v).mem =
      s.memStored (s.memStored s.mem (wordBase a) (lowerOf s v)) (wordBase a + 1) (upperOf s v) := rfl
@[simp] theorem State.storedWord_rom (s : State) (a : Addr) (v : Word) : (s.storedWord a v).rom = s.rom := rfl
@[simp] theorem State.storedWord_trashed (s : State) (a : Addr) (v : Word) : (s.storedWord a v).trashed = s.trashed := rfl
@[simp] theorem State.storedWord_irq (s : State) (a : Addr) (v : Word) : (s.storedWord a v).irq = s.irq := rfl
@[simp] theorem State.storedWord_out (s : State) (a : Addr) (v : Word) :
    (s.storedWord a v).out = outAfter s a v s.out := rfl
@[simp] theorem State.storedWord_draws (s : State) (a : Addr) (v : Word) : (s.storedWord a v).draws = s.draws := rfl
@[simp] theorem State.storedWord_cfg (s : State) (a : Addr) (v : Word) : (s.storedWord a v).cfg = s.cfg := rfl
@[simp] theorem State.storedWord_kind (s : State) (a : Addr) (v : Word) (acc : Access) (b : Addr) : (s.storedWord a v).kind acc b = s.kind acc b := rfl
@[simp] theorem State.storedWord_pcBase (s : State) (a : Addr) (v : Word) (len : Nat) : (s.storedWord a v).pcBase len = s.pcBase len := rfl
@[simp] theorem storedWord_writable (s : State) (a : Addr) (v : Word) (b : Addr) : WordWritable (s.storedWord a v) b ↔ WordWritable s b := Iff.rfl
@[simp] theorem storedWord_readable (s : State) (a : Addr) (v : Word) (b : Addr) : WordReadable (s.storedWord a v) b ↔ WordReadable s b := Iff.rfl

@[simp] theorem State.storedByte_d (s : State) (a : Addr) (v : Byte) : (s.storedByte a v).d = s.d := rfl
@[simp] theorem State.storedByte_x (s : State) (a : Addr) (v : Byte) : (s.storedByte a v).x = s.x := rfl
@[simp] theorem State.storedByte_y (s : State) (a : Addr) (v : Byte) : (s.storedByte a v).y = s.y := rfl
@[simp] theorem State.storedByte_pc (s : State) (a : Addr) (v : Byte) : (s.storedByte a v).pc = s.pc := rfl
@[simp] theorem State.storedByte_c (s : State) (a : Addr) (v : Byte) : (s.storedByte a v).c = s.c := rfl
@[simp] theorem State.storedByte_z (s : State) (a : Addr) (v : Byte) : (s.storedByte a v).z = s.z := rfl
@[simp] theorem State.storedByte_n (s : State) (a : Addr) (v : Byte) : (s.storedByte a v).n = s.n := rfl
@[simp] theorem State.storedByte_v (s : State) (a : Addr) (v : Byte) : (s.storedByte a v).v = s.v := rfl
@[simp] theorem State.storedByte_ie (s : State) (a : Addr) (v : Byte) : (s.storedByte a v).ie = s.ie := rfl
@[simp] theorem State.storedByte_halted (s : State) (a : Addr) (v : Byte) : (s.storedByte a v).halted = s.halted := rfl
@[simp] theorem State.storedByte_haltCode (s : State) (a : Addr) (v : Byte) : (s.storedByte a v).haltCode = s.haltCode := rfl
@[simp] theorem State.storedByte_mem (s : State) (a : Addr) (v : Byte) :
    (s.storedByte a v).mem =
      s.memStored s.mem a v := rfl
@[simp] theorem State.storedByte_rom (s : State) (a : Addr) (v : Byte) : (s.storedByte a v).rom = s.rom := rfl
@[simp] theorem State.storedByte_trashed (s : State) (a : Addr) (v : Byte) : (s.storedByte a v).trashed = s.trashed := rfl
@[simp] theorem State.storedByte_irq (s : State) (a : Addr) (v : Byte) : (s.storedByte a v).irq = s.irq := rfl
@[simp] theorem State.storedByte_out (s : State) (a : Addr) (v : Byte) :
    (s.storedByte a v).out = if s.kind .store a = .device then .byte a v :: s.out else s.out := rfl
@[simp] theorem State.storedByte_draws (s : State) (a : Addr) (v : Byte) : (s.storedByte a v).draws = s.draws := rfl
@[simp] theorem State.storedByte_cfg (s : State) (a : Addr) (v : Byte) : (s.storedByte a v).cfg = s.cfg := rfl
@[simp] theorem State.storedByte_kind (s : State) (a : Addr) (v : Byte) (acc : Access) (b : Addr) : (s.storedByte a v).kind acc b = s.kind acc b := rfl
@[simp] theorem State.storedByte_pcBase (s : State) (a : Addr) (v : Byte) (len : Nat) : (s.storedByte a v).pcBase len = s.pcBase len := rfl
@[simp] theorem storedByte_writable (s : State) (a : Addr) (v : Byte) (b : Addr) : WordWritable (s.storedByte a v) b ↔ WordWritable s b := Iff.rfl
@[simp] theorem storedByte_readable (s : State) (a : Addr) (v : Byte) (b : Addr) : WordReadable (s.storedByte a v) b ↔ WordReadable s b := Iff.rfl

@[simp] theorem State.storedWord_readG (s : State) (a : Addr) (w : Word) (g : Gpr) : (s.storedWord a w).readG g = s.readG g := rfl
@[simp] theorem State.storedWord_xy (s : State) (a : Addr) (w : Word) (i : Idx) : (s.storedWord a w).xy i = s.xy i := rfl
@[simp] theorem State.storedWord_nextPc (s : State) (a : Addr) (w : Word) (k : Nat) : (s.storedWord a w).nextPc k = s.nextPc k := rfl
@[simp] theorem State.storedWord_srWord (s : State) (a : Addr) (w : Word)  : (s.storedWord a w).srWord = s.srWord := rfl
@[simp] theorem State.storedByte_readG (s : State) (a : Addr) (w : Byte) (g : Gpr) : (s.storedByte a w).readG g = s.readG g := rfl
@[simp] theorem State.storedByte_xy (s : State) (a : Addr) (w : Byte) (i : Idx) : (s.storedByte a w).xy i = s.xy i := rfl
@[simp] theorem State.storedByte_nextPc (s : State) (a : Addr) (w : Byte) (k : Nat) : (s.storedByte a w).nextPc k = s.nextPc k := rfl
@[simp] theorem State.storedByte_srWord (s : State) (a : Addr) (w : Byte)  : (s.storedByte a w).srWord = s.srWord := rfl

/-- What a byte store answers (R52, R59). -/
theorem writeByte_eq_next (a : Addr) (v : Byte) (s t : State) :
    writeByte a v s = .next t ↔ ByteWritable s a ∧ t = s.storedByte a v := by
  unfold writeByte ByteWritable State.storedByte State.memStored
  cases hk : s.kind .store a <;> simp [eq_comm]

/-- When a byte store is refused, and why (R52). -/
theorem writeByte_eq_refused (a : Addr) (v : Byte) (s : State) (e : Refusal) :
    writeByte a v s = .refused e ↔ byteWriteStop s a = some e := by
  unfold writeByte byteWriteStop
  cases s.kind .store a <;> simp

/-- A word stored to a device is one output event (R67). -/
theorem State.storedWord_device {s : State} {a : Addr} (h : DeviceWord s .store a) (v : Word) :
    s.storedWord a v = { s with out := .word (wordBase a) v :: s.out } := by
  unfold State.storedWord State.memStored outAfter
  rw [if_pos h, h.1, h.2]
  simp

/-- A word stored elsewhere is its two bytes stored, the lower first (R54). -/
theorem State.storedByte_storedByte {s : State} {a : Addr} (h : ¬ DeviceWord s .store a) (v : Word) :
    (s.storedByte (wordBase a) (lowerOf s v)).storedByte (wordBase a + 1) (upperOf s v) = s.storedWord a v := by
  unfold State.storedWord outAfter
  rw [if_neg h]
  show State.mk .. = State.mk ..
  congr 1
  show (if s.kind .store (wordBase a + 1) = .device then _ :: (if s.kind .store (wordBase a) = .device then _ else _)
    else if s.kind .store (wordBase a) = .device then _ else _) = _
  split <;> split <;> simp_all

/-- A word store is one access of a device, or the stores of its two bytes (R52, R54, R67). -/
theorem writeWord_aligned {s : State} {a : Addr} (h : Aligned s a) (v : Word) :
    writeWord a v s =
      if DeviceWord s .store a then .next { s with out := .word (wordBase a) v :: s.out }
      else Res.bind (writeByte (wordBase a) (lowerOf s v) s) fun t => writeByte (wordBase a + 1) (upperOf s v) t := by
  simp only [writeWord, if_pos ((State.wordOk_iff s a).2 h), State.deviceWordAt, Bool.and_eq_true, beq_iff_eq,
    lowerOf_eq, upperOf_eq]

/-- What a word store answers (R52, R54, R56). -/
theorem writeWord_eq_next (a : Addr) (v : Word) (s t : State) :
    writeWord a v s = .next t ↔ WordWritable s a ∧ t = s.storedWord a v := by
  by_cases h : Aligned s a
  · rw [writeWord_aligned h]
    split
    · rename_i hd
      rw [State.storedWord_device hd]
      simp [WordWritable, ByteWritable, h, hd.1, show s.kind .store (wordBase a + 1#24) = .device from hd.2, eq_comm]
    · rename_i hd
      simp only [Res.bind_eq_next, writeByte_eq_next, ← State.storedByte_storedByte hd, WordWritable, h, true_and]
      exact ⟨fun ⟨_, ⟨h1, e⟩, h2, e'⟩ => by subst e; exact ⟨⟨h1, h2⟩, e'⟩,
        fun ⟨⟨h1, h2⟩, e⟩ => ⟨_, ⟨h1, rfl⟩, h2, e⟩⟩
  · rw [writeWord, if_neg (mt (State.wordOk_iff s a).1 h)]
    simp [WordWritable, h]

/-- When a word store is refused, and why (R52, R56). -/
theorem writeWord_eq_refused (a : Addr) (v : Word) (s : State) (e : Refusal) :
    writeWord a v s = .refused e ↔ writeStop s a = some e := by
  unfold writeStop
  rcases aligned_or_misaligned s a with h | h
  · rw [writeWord_aligned h, if_neg (not_misaligned h)]
    split
    · rename_i hd
      simp [byteWriteStop, hd.1, show s.kind .store (wordBase a + 1#24) = .device from hd.2]
    · simp only [Res.bind_eq_refused, writeByte_eq_refused, writeByte_eq_next, firstStop_cons_eq_some, firstStop_nil,
        byteWriteStop_eq_none]
      exact ⟨fun h => h.imp id fun ⟨_, ⟨h1, e⟩, h2⟩ => by subst e; exact ⟨h1, .inl h2⟩,
        fun h => h.imp id fun ⟨h1, h2⟩ => ⟨_, ⟨h1, rfl⟩, h2.elim id fun h => nomatch h.2⟩⟩
  · rw [writeWord, if_neg (fun h' => not_misaligned ((State.wordOk_iff s a).1 h') h), if_pos h]
    simp

theorem writeWord_next {s : State} {a : Addr} (h : WordWritable s a) (v : Word) :
    writeWord a v s = .next (s.storedWord a v) :=
  (writeWord_eq_next a v s _).2 ⟨h, rfl⟩

theorem writeByte_next {s : State} {a : Addr} (h : ByteWritable s a) (v : Byte) :
    writeByte a v s = .next (s.storedByte a v) :=
  (writeByte_eq_next a v s _).2 ⟨h, rfl⟩

/-- What a store of a 24-bit value answers (R58): the bank word, then the low word. -/
theorem write24_eq_next (a v : Addr) (s t : State) :
    write24 a v s = .next t ↔
      (WordWritable s a ∧ WordWritable s (a + 2)) ∧
        t = (s.storedWord a ((bankOf v).setWidth 16)).storedWord (a + 2) (offsetOf v) := by
  simp only [write24, Res.bind_eq_next, writeWord_eq_next]
  constructor
  · rintro ⟨u, ⟨h1, rfl⟩, h2, rfl⟩
    exact ⟨⟨h1, h2⟩, rfl⟩
  · rintro ⟨⟨h1, h2⟩, rfl⟩
    exact ⟨_, ⟨h1, rfl⟩, h2, rfl⟩

@[simp] theorem storedWord_writeStop (s : State) (a : Addr) (v : Word) (b : Addr) :
    writeStop (s.storedWord a v) b = writeStop s b := rfl

/-- When a store of a 24-bit value is refused, and why (R52, R56, R58): as the first word whose store is. -/
theorem write24_eq_refused (a v : Addr) (s : State) (e : Refusal) :
    write24 a v s = .refused e ↔ firstStop [writeStop s a, writeStop s (a + 2)] = some e := by
  simp only [write24, Res.bind_eq_refused, writeWord_eq_refused, writeWord_eq_next, firstStop_cons_eq_some, firstStop_nil,
    writeStop_eq_none]
  constructor
  · rintro (h | ⟨t, ⟨h, rfl⟩, h'⟩)
    · exact .inl h
    · exact .inr ⟨h, .inl h'⟩
  · rintro (h | ⟨h, h' | ⟨_, h'⟩⟩)
    · exact .inl h
    · exact .inr ⟨_, ⟨h, rfl⟩, h'⟩
    · cases h'

/-! ### What a store leaves in memory and in the output -/

/-- One word store as the frame predicate of claims says it (R54). -/
theorem storedWord_get? (s : State) (a : Addr) (v : Word) (k : Nat) :
    (s.storedWord a v).mem.get? k = cellAfter s a v k (s.mem.get? k) := by
  have := wordBase_succ_toNat a
  simp only [State.storedWord_mem, State.memStored_get?, cellAfter]
  split
  · rw [if_neg (by omega)]
  · rfl

theorem cellAfter_congr {s t : State} (h : t.cfg = s.cfg) (a : Addr) (v : Word) (k : Nat) (old : Option Byte) :
    cellAfter t a v k old = cellAfter s a v k old := by
  unfold cellAfter lowerOf upperOf State.kind
  rw [h]

theorem outAfter_congr {s t : State} (h : t.cfg = s.cfg) (a : Addr) (v : Word) (old : List DevWrite) :
    outAfter t a v old = outAfter s a v old := by
  unfold outAfter DeviceWord lowerOf upperOf State.kind
  rw [h]

theorem StoredWords.nil {s t : State} (h : t.mem = s.mem) (hr : t.rom = s.rom) (h' : t.out = s.out) :
    StoredWords s t [] := by
  simp [StoredWords, h, hr, h']

/-- Storing one more word after the words `ws`. -/
theorem StoredWords.snoc {s t u : State} {ws : List (Addr × Word)} {a : Addr} {v : Word} (h : StoredWords s t ws)
    (hc : t.cfg = s.cfg) (hm : u.mem = (t.storedWord a v).mem) (hr : u.rom = t.rom)
    (ho : u.out = (t.storedWord a v).out) : StoredWords s u (ws ++ [(a, v)]) := by
  refine ⟨fun k => ?_, hr.trans h.2.1, ?_⟩
  · rw [hm, storedWord_get?, h.1, cellAfter_congr hc]
    simp
  · rw [ho, State.storedWord_out, h.2.2, outAfter_congr hc, List.foldl_append]
    rfl

/-- Two runs of stores, one after the other. -/
theorem StoredWords.append {s t u : State} {ws vs : List (Addr × Word)} (h : StoredWords s t ws)
    (hc : t.cfg = s.cfg) (h' : StoredWords t u vs) : StoredWords s u (ws ++ vs) := by
  refine ⟨fun k => ?_, h'.2.1.trans h.2.1, ?_⟩
  · rw [h'.1, h.1, List.foldl_append]
    simp only [cellAfter_congr hc]
  · rw [h'.2.2, h.2.2, List.foldl_append]
    simp only [outAfter_congr hc]

/-- A byte store as the frame predicate of claims says it (R59). -/
theorem storedByte_spec (s : State) (a : Addr) (v : Byte) : StoredByte s (s.storedByte a v) a v :=
  ⟨fun k => by simp [and_comm], rfl, rfl⟩

/-- A byte or word store at a writable address keeps the canonical form. -/
theorem storedWord_wf {s : State} (h : s.mem.wf) (a : Addr) (v : Word) : (s.storedWord a v).mem.wf :=
  s.memStored_wf (s.memStored_wf h _ _) _ _

theorem storedByte_wf {s : State} (h : s.mem.wf) (a : Addr) (v : Byte) : (s.storedByte a v).mem.wf :=
  s.memStored_wf h a v

/-! ### Stacks -/

/-- The state after `Push16(p, v)` (R14, R270). -/
def State.pushed (s : State) (p : Idx) (v : Word) : State := (s.setXY p (s.xy p - 2)).storedWord (s.xy p - 2) v

/-- What a push answers (R14, R270). -/
theorem push16_eq_next (p : Idx) (v : Word) (s t : State) :
    push16 p v s = .next t ↔ WordWritable s (s.xy p - 2) ∧ t = s.pushed p v := by
  simp only [push16, writeWord_eq_next, State.pushed, writable_setXY]

/-- When a push is refused, and why (R56, R270). -/
theorem push16_eq_refused (p : Idx) (v : Word) (s : State) (e : Refusal) :
    push16 p v s = .refused e ↔ writeStop s (s.xy p - 2) = some e := by
  rw [push16, writeWord_eq_refused, (access_congr (State.setXY_cfg s _ _) _).2.2.2.2.2.1]

/-- What a pop answers (R14, R270). -/
theorem pop16_eq_next (p : Idx) (s : State) (r : Word × State) :
    pop16 p s = .next r ↔
      WordReadable s (s.xy p) ∧
        r = (wordAt s s.draws (s.xy p), (s.drawn (drawCount s (s.xy p))).setXY p (s.xy p + 2)) := by
  simp only [pop16, Res.bind_eq_next, readWord_eq_next]
  constructor
  · rintro ⟨a, ⟨h, rfl⟩, e⟩
    exact ⟨h, (by injection e with e; exact e.symm)⟩
  · rintro ⟨h, rfl⟩
    exact ⟨_, ⟨h, rfl⟩, rfl⟩

/-- When a pop is refused, and why (R56, R270). -/
theorem pop16_eq_refused (p : Idx) (s : State) (e : Refusal) :
    pop16 p s = .refused e ↔ readStop s (s.xy p) = some e := by
  simp [pop16, Res.bind_eq_refused, readWord_eq_refused]

@[simp] theorem State.pushed_d (s : State) (p : Idx) (w : Word) : (s.pushed p w).d = s.d := rfl
@[simp] theorem State.pushed_pc (s : State) (p : Idx) (w : Word) : (s.pushed p w).pc = s.pc := rfl
@[simp] theorem State.pushed_c (s : State) (p : Idx) (w : Word) : (s.pushed p w).c = s.c := rfl
@[simp] theorem State.pushed_z (s : State) (p : Idx) (w : Word) : (s.pushed p w).z = s.z := rfl
@[simp] theorem State.pushed_n (s : State) (p : Idx) (w : Word) : (s.pushed p w).n = s.n := rfl
@[simp] theorem State.pushed_v (s : State) (p : Idx) (w : Word) : (s.pushed p w).v = s.v := rfl
@[simp] theorem State.pushed_ie (s : State) (p : Idx) (w : Word) : (s.pushed p w).ie = s.ie := rfl
@[simp] theorem State.pushed_halted (s : State) (p : Idx) (w : Word) : (s.pushed p w).halted = s.halted := rfl
@[simp] theorem State.pushed_haltCode (s : State) (p : Idx) (w : Word) : (s.pushed p w).haltCode = s.haltCode := rfl
@[simp] theorem State.pushed_rom (s : State) (p : Idx) (w : Word) : (s.pushed p w).rom = s.rom := rfl
@[simp] theorem State.pushed_trashed (s : State) (p : Idx) (w : Word) : (s.pushed p w).trashed = s.trashed := rfl
@[simp] theorem State.pushed_irq (s : State) (p : Idx) (w : Word) : (s.pushed p w).irq = s.irq := rfl
@[simp] theorem State.pushed_draws (s : State) (p : Idx) (w : Word) : (s.pushed p w).draws = s.draws := rfl
@[simp] theorem State.pushed_cfg (s : State) (p : Idx) (w : Word) : (s.pushed p w).cfg = s.cfg := rfl
@[simp] theorem State.pushed_kind (s : State) (p : Idx) (w : Word) (acc : Access) (a : Addr) : (s.pushed p w).kind acc a = s.kind acc a := rfl
@[simp] theorem State.pushed_pcBase (s : State) (p : Idx) (w : Word) (len : Nat) : (s.pushed p w).pcBase len = s.pcBase len := rfl
@[simp] theorem pushed_writable (s : State) (p : Idx) (w : Word) (a : Addr) : WordWritable (s.pushed p w) a ↔ WordWritable s a := Iff.rfl
@[simp] theorem pushed_readable (s : State) (p : Idx) (w : Word) (a : Addr) : WordReadable (s.pushed p w) a ↔ WordReadable s a := Iff.rfl
@[simp] theorem pushed_writeStop (s : State) (p : Idx) (w : Word) (a : Addr) : writeStop (s.pushed p w) a = writeStop s a := rfl
@[simp] theorem State.pushed_nextPc (s : State) (p : Idx) (w : Word) (k : Nat) : (s.pushed p w).nextPc k = s.nextPc k := rfl
@[simp] theorem State.pushed_srWord (s : State) (p : Idx) (w : Word) : (s.pushed p w).srWord = s.srWord := rfl
@[simp] theorem State.pushed_xy_self (s : State) (p : Idx) (v : Word) : (s.pushed p v).xy p = s.xy p - 2 := by
  simp [State.pushed]

theorem State.pushed_xy (s : State) (p q : Idx) (v : Word) :
    (s.pushed p v).xy q = if q = p then s.xy p - 2 else s.xy q := by
  simp [State.pushed]

/-- A register that is no half of the stack pair is kept by a push. -/
theorem State.pushed_readG (s : State) (p : Idx) (v : Word) (g : Gpr) :
    (s.pushed p v).readG g =
      if g = .x p then offsetOf (s.xy p - 2) else if g = .y p then (bankOf (s.xy p - 2)).setWidth 16 else s.readG g := by
  simp [State.pushed, State.readG_setXY]

/-! ### Frames, one instruction part after another -/

theorem ControlKept.trans {s t u : State} (h : ControlKept s t) (h' : ControlKept t u) : ControlKept s u :=
  ⟨h'.1.trans h.1, h'.2.1.trans h.2.1, h'.2.2.1.trans h.2.2.1, h'.2.2.2.1.trans h.2.2.2.1, h'.2.2.2.2.trans h.2.2.2.2⟩

theorem FlagsKept.trans {s t u : State} (h : FlagsKept s t) (h' : FlagsKept t u) : FlagsKept s u :=
  ⟨⟨h'.1.1.trans h.1.1, h'.1.2.1.trans h.1.2.1, h'.1.2.2.1.trans h.1.2.2.1, h'.1.2.2.2.trans h.1.2.2.2⟩,
    h'.2.trans h.2⟩

theorem RegsKept.trans {P : Gpr → Prop} {s t u : State} (h : RegsKept P s t) (h' : RegsKept P t u) : RegsKept P s u :=
  fun g hg => (h' g hg).trans (h g hg)

/-- All that a completed push does, in the terms of claims (R14, R270). -/
theorem push16_spec {s : State} {p : Idx} (v : Word) (h : WordWritable s (s.xy p - 2)) :
    ∃ t, push16 p v s = .next t ∧ t.xy p = s.xy p - 2 ∧ StoredWords s t [(s.xy p - 2, v)] ∧
      RegsKept (pairRegs p) s t ∧ FlagsKept s t ∧ ControlKept s t ∧ t.pc = s.pc ∧ t.draws = s.draws ∧
      t.srWord = s.srWord := by
  refine ⟨s.pushed p v, (push16_eq_next _ _ _ _).2 ⟨h, rfl⟩, State.pushed_xy_self _ _ _, ?_, ?_, ?_, ?_, rfl, rfl, rfl⟩
  · have h1 : StoredWords s (s.setXY p (s.xy p - 2)) [] := StoredWords.nil rfl rfl rfl
    exact StoredWords.snoc h1 rfl rfl rfl rfl
  · intro g hg
    simp only [pairRegs, not_or] at hg
    rw [State.pushed_readG, if_neg hg.1, if_neg hg.2]
  · exact ⟨⟨rfl, rfl, rfl, rfl⟩, rfl⟩
  · exact ⟨rfl, rfl, rfl, rfl, rfl⟩

/-- All that a completed pop does, in the terms of claims (R14, R270). -/
theorem pop16_spec {s : State} {p : Idx} (h : WordReadable s (s.xy p)) :
    ∃ t, pop16 p s = .next (wordAt s s.draws (s.xy p), t) ∧ t.xy p = s.xy p + 2 ∧ t.mem = s.mem ∧ t.rom = s.rom ∧ t.out = s.out ∧
      RegsKept (pairRegs p) s t ∧ FlagsKept s t ∧ ControlKept s t ∧ t.pc = s.pc ∧
      t.draws = drawsAfter s s.draws (s.xy p) := by
  refine ⟨_, (pop16_eq_next _ _ _).2 ⟨h, rfl⟩, State.xy_setXY _ _ _ _ |>.trans (by simp), rfl, rfl, rfl, ?_, ?_, ?_, rfl, ?_⟩
  · intro g hg
    simp only [pairRegs, not_or] at hg
    simp [State.readG_setXY, hg.1, hg.2]
  · exact ⟨⟨rfl, rfl, rfl, rfl⟩, rfl⟩
  · exact ⟨rfl, rfl, rfl, rfl, rfl⟩
  · simp [drawsAfter_eq]

/-- A word read depends on memory and the configuration alone. -/
theorem wordAt_congr {s t : State} (h : t.mem = s.mem) (hr : t.rom = s.rom) (hc : t.cfg = s.cfg) (k : Nat) (a : Addr) :
    wordAt t k a = wordAt s k a := by
  cases s
  cases t
  dsimp only at h hr hc
  subst h hr hc
  rfl

/-- What the pushes of a return address answer (R251, R314). -/
theorem pushPc_eq_next (ret : Addr) (s t : State) :
    pushPc ret s = .next t ↔
      (WordWritable s (s.xy .i3 - 2) ∧ WordWritable s (s.xy .i3 - 4)) ∧
        t = (s.pushed .i3 (offsetOf ret)).pushed .i3 ((bankOf ret).setWidth 16) := by
  have e : s.xy .i3 - 2 - 2 = s.xy .i3 - 4 := by
    rw [BitVec.sub_sub]
    rfl
  simp only [pushPc, Res.bind_eq_next, push16_eq_next]
  constructor
  · rintro ⟨u, ⟨h1, rfl⟩, h2, rfl⟩
    rw [State.pushed_xy_self, e] at h2
    exact ⟨⟨h1, h2⟩, rfl⟩
  · rintro ⟨⟨h1, h2⟩, rfl⟩
    refine ⟨_, ⟨h1, rfl⟩, ?_, rfl⟩
    rw [State.pushed_xy_self, e]
    exact h2

/-- When the pushes of a return address are refused, and why (R251, R314): as the first of them that is. -/
theorem pushPc_eq_refused (ret : Addr) (s : State) (e : Refusal) :
    pushPc ret s = .refused e ↔ firstStop [writeStop s (s.xy .i3 - 2), writeStop s (s.xy .i3 - 4)] = some e := by
  simp only [pushPc, Res.bind_eq_refused, push16_eq_refused, push16_eq_next, firstStop_cons_eq_some, firstStop_nil,
    writeStop_eq_none]
  constructor
  · rintro (h | ⟨t, ⟨h, rfl⟩, h'⟩)
    · exact .inl h
    · exact .inr ⟨h, .inl (by simpa [addr_sub22] using h')⟩
  · rintro (h | ⟨h, h' | ⟨_, h'⟩⟩)
    · exact .inl h
    · exact .inr ⟨_, ⟨h, rfl⟩, by simpa [addr_sub22] using h'⟩
    · cases h'

/-- What the pops of a return address answer (R255, R318). -/
theorem popPc_eq_next (s : State) (r : Addr × State) :
    popPc s = .next r ↔
      (WordReadable s (s.xy .i3) ∧ WordReadable s (s.xy .i3 + 2)) ∧
        r = (mkAddr (loByte (wordAt s s.draws (s.xy .i3)))
              (wordAt s (drawsAfter s s.draws (s.xy .i3)) (s.xy .i3 + 2)),
            (s.drawn (drawCount s (s.xy .i3) + drawCount s (s.xy .i3 + 2))).setXY .i3 (s.xy .i3 + 4)) := by
  simp only [popPc, Res.bind_eq_next, pop16_eq_next, drawsAfter_eq]
  constructor
  · rintro ⟨hi, ⟨h1, rfl⟩, lo, ⟨h2, rfl⟩, h⟩
    simp only [State.xy_setXY, if_true] at h2
    refine ⟨⟨h1, h2⟩, ?_⟩
    injection h with h
    subst h
    simp [addr_add22]
  · rintro ⟨⟨h1, h2⟩, rfl⟩
    refine ⟨_, ⟨h1, rfl⟩, _, ⟨by simpa using h2, rfl⟩, ?_⟩
    simp [addr_add22]

/-- When the pops of a return address are refused, and why (R255, R318): as the first of them that is. -/
theorem popPc_eq_refused (s : State) (e : Refusal) :
    popPc s = .refused e ↔ firstStop [readStop s (s.xy .i3), readStop s (s.xy .i3 + 2)] = some e := by
  simp only [popPc, Res.bind_eq_refused, pop16_eq_refused, pop16_eq_next, firstStop_cons_eq_some, firstStop_nil,
    readStop_eq_none]
  constructor
  · rintro (h | ⟨r, ⟨h, rfl⟩, h' | ⟨_, _, h'⟩⟩)
    · exact .inl h
    · exact .inr ⟨h, .inl (by simpa using h')⟩
    · cases h'
  · rintro (h | ⟨h, h' | ⟨_, h'⟩⟩)
    · exact .inl h
    · exact .inr ⟨_, ⟨h, rfl⟩, .inl (by simpa using h')⟩
    · cases h'

/-! ### Taking an interrupt and returning from one -/

/-- The state after the three pushes of an interrupt entry (R314). -/
def State.framePushed (s : State) (ret : Addr) : State :=
  ((s.pushed .i3 (offsetOf ret)).pushed .i3 ((bankOf ret).setWidth 16)).pushed .i3 s.srWord

@[simp] theorem State.framePushed_cfg (s : State) (ret : Addr) : (s.framePushed ret).cfg = s.cfg := rfl
@[simp] theorem State.framePushed_draws (s : State) (ret : Addr) : (s.framePushed ret).draws = s.draws := rfl
@[simp] theorem State.framePushed_ie (s : State) (ret : Addr) : (s.framePushed ret).ie = s.ie := rfl

/-- What the three pushes of an interrupt entry answer (R314). -/
theorem pushFrame_eq_next (ret : Addr) (s w : State) :
    (∃ u, pushPc ret s = .next u ∧ push16 .i3 s.srWord u = .next w) ↔
      (WordWritable s (s.xy .i3 - 2) ∧ WordWritable s (s.xy .i3 - 4) ∧ WordWritable s (s.xy .i3 - 6)) ∧
        w = s.framePushed ret := by
  simp only [pushPc_eq_next, push16_eq_next]
  constructor
  · rintro ⟨u, ⟨⟨h1, h2⟩, rfl⟩, h3, rfl⟩
    simp only [State.pushed_xy_self, pushed_writable] at h3
    exact ⟨⟨h1, h2, by simpa [addr_sub22, addr_sub42] using h3⟩, rfl⟩
  · rintro ⟨⟨h1, h2, h3⟩, rfl⟩
    refine ⟨_, ⟨⟨h1, h2⟩, rfl⟩, ?_, rfl⟩
    simpa [addr_sub22, addr_sub42] using h3

/-- What the read of the vector answers in a state `f` of the configuration and the count of draws of `s` (R316). -/
theorem readVector_eq_next {s f : State} (hc : f.cfg = s.cfg) (hd : f.draws = s.draws) (b : Bool) (r : Addr × State) :
    read24 f.cfg.vectorBase { f with ie := b } = .next r ↔
      (WordReadable s s.cfg.vectorBase ∧ WordReadable s (s.cfg.vectorBase + 2)) ∧
        r = (mkAddr (loByte (wordAt f s.draws s.cfg.vectorBase))
              (wordAt f (drawsAfter s s.draws s.cfg.vectorBase) (s.cfg.vectorBase + 2)),
            ({ f with ie := b } : State).drawn
              (drawCount s s.cfg.vectorBase + drawCount s (s.cfg.vectorBase + 2))) := by
  cases s
  cases f
  dsimp only at hc hd
  subst hc hd
  exact read24_eq_next _ _ _

/-- What an interrupt entry answers (R314, R316): SR can be read, the three words below XY3 are writable and the vector is
readable. -/
theorem interruptEntry_eq_next (ret : Addr) (s t : State) :
    interruptEntry ret s = .next t ↔ FlagsReadable s Flags.all ∧
      (WordWritable s (s.xy .i3 - 2) ∧ WordWritable s (s.xy .i3 - 4) ∧ WordWritable s (s.xy .i3 - 6)) ∧
        (WordReadable s s.cfg.vectorBase ∧ WordReadable s (s.cfg.vectorBase + 2)) ∧
        t = (({ s.framePushed ret with ie := s.ie && !s.cfg.intEntry.clearIe }).drawn
            (drawCount s s.cfg.vectorBase + drawCount s (s.cfg.vectorBase + 2))).jump
          (mkAddr (loByte (wordAt (s.framePushed ret) s.draws s.cfg.vectorBase))
            (wordAt (s.framePushed ret) (drawsAfter s s.draws s.cfg.vectorBase) (s.cfg.vectorBase + 2))) := by
  rw [interruptEntry, readingFlags_eq_next, and_congr_right_iff]
  intro _
  simp only [Res.bind_eq_next]
  constructor
  · rintro ⟨u, h1, w, h2, r, hr, h⟩
    obtain ⟨hw, rfl⟩ := (pushFrame_eq_next ret s w).1 ⟨u, h1, h2⟩
    obtain ⟨hv, rfl⟩ := (readVector_eq_next (State.framePushed_cfg s ret) (State.framePushed_draws s ret) _ r).1 hr
    exact ⟨hw, hv, (Host.Outcome.next.inj h).symm⟩
  · rintro ⟨hw, hv, rfl⟩
    obtain ⟨u, h1, h2⟩ := (pushFrame_eq_next ret s _).2 ⟨hw, rfl⟩
    exact ⟨u, h1, _, h2, _,
      (readVector_eq_next (State.framePushed_cfg s ret) (State.framePushed_draws s ret) _ _).2 ⟨hv, rfl⟩, rfl⟩

/-- When an interrupt entry is refused, and why (R44, R52, R56, R314): as its read of SR, or as the first of its five accesses
that is. -/
theorem interruptEntry_eq_refused (ret : Addr) (s : State) (e : Refusal) :
    interruptEntry ret s = .refused e ↔
      (¬ FlagsReadable s Flags.all ∧ e = .trashedFlag) ∨ (FlagsReadable s Flags.all ∧
        firstStop [writeStop s (s.xy .i3 - 2), writeStop s (s.xy .i3 - 4), writeStop s (s.xy .i3 - 6),
          readStop s s.cfg.vectorBase, readStop s (s.cfg.vectorBase + 2)] = some e) := by
  rw [interruptEntry, readingFlags_eq_refused]
  refine or_congr_right (and_congr_right fun _ => ?_)
  simp only [Res.bind_eq_refused, pushPc_eq_refused, pushPc_eq_next, push16_eq_refused, push16_eq_next,
    read24_eq_refused, firstStop_cons_eq_some, firstStop_nil, writeStop_eq_none]
  constructor
  · rintro ((h | ⟨h, h' | ⟨_, h'⟩⟩) | ⟨t, ⟨⟨h1, h2⟩, rfl⟩, h | ⟨u, ⟨h3, rfl⟩, (h | h) | ⟨_, _, h⟩⟩⟩)
    · exact .inl h
    · exact .inr ⟨h, .inl h'⟩
    · cases h'
    · exact .inr ⟨h1, .inr ⟨h2, .inl (by simpa [addr_sub22, addr_sub42] using h)⟩⟩
    · exact .inr ⟨h1, .inr ⟨h2, .inr ⟨by simpa [addr_sub22, addr_sub42] using h3, .inl h⟩⟩⟩
    · exact .inr ⟨h1, .inr ⟨h2, .inr ⟨by simpa [addr_sub22, addr_sub42] using h3, .inr h⟩⟩⟩
    · cases h
  · rintro (h | ⟨h1, h | ⟨h2, h | ⟨h3, h⟩⟩⟩)
    · exact .inl (.inl h)
    · exact .inl (.inr ⟨h1, .inl h⟩)
    · exact .inr ⟨_, ⟨⟨h1, h2⟩, rfl⟩, .inl (by simpa [addr_sub22, addr_sub42] using h)⟩
    · exact .inr ⟨_, ⟨⟨h1, h2⟩, rfl⟩, .inr ⟨_, ⟨by simpa [addr_sub22, addr_sub42] using h3, rfl⟩, .inl h⟩⟩

/-- What a return from an interrupt answers (R296, R318): the three words at XY3 are readable, and the return address is
one that can be fetched at. -/
theorem interruptReturn_eq_next (s t : State) :
    interruptReturn s = .next t ↔
      (WordReadable s (s.xy .i3) ∧ WordReadable s (s.xy .i3 + 2) ∧ WordReadable s (s.xy .i3 + 4)) ∧
        Aligned s (mkAddr (loByte (wordAt s (drawsAfter s s.draws (s.xy .i3)) (s.xy .i3 + 2)))
          (wordAt s (drawsAfter s (drawsAfter s s.draws (s.xy .i3)) (s.xy .i3 + 2)) (s.xy .i3 + 4))) ∧
        t = ({ ((s.drawn (drawCount s (s.xy .i3) + (drawCount s (s.xy .i3 + 2) + drawCount s (s.xy .i3 + 4)))).setXY .i3
                (s.xy .i3 + 6)).writeSr (wordAt s s.draws (s.xy .i3)) with
              ie := if s.cfg.intEntry.restoreIe then (wordAt s s.draws (s.xy .i3)).getLsbD 7 else s.ie }).jump
            (mkAddr (loByte (wordAt s (drawsAfter s s.draws (s.xy .i3)) (s.xy .i3 + 2)))
              (wordAt s (drawsAfter s (drawsAfter s s.draws (s.xy .i3)) (s.xy .i3 + 2)) (s.xy .i3 + 4))) := by
  simp only [interruptReturn, Res.bind_eq_next, pop16_eq_next, popPc_eq_next, drawsAfter_eq]
  constructor
  · rintro ⟨a, ⟨h1, rfl⟩, b, ⟨⟨h2, h3⟩, rfl⟩, h⟩
    split at h
    · rename_i hok
      simp only [State.xy_setXY, if_true] at h2 h3
      refine ⟨⟨h1, h2, by simpa [addr_add22] using h3⟩, ?_, ?_⟩
      · have := (State.wordOk_iff s _).1 hok
        simpa [addr_add22] using this
      · injection h with h
        subst h
        simp [addr_add22, addr_add24]
    · cases h
  · rintro ⟨⟨h1, h2, h3⟩, hok, rfl⟩
    refine ⟨_, ⟨h1, rfl⟩, _, ⟨⟨by simpa using h2, by simpa [addr_add22] using h3⟩, rfl⟩, ?_⟩
    rw [if_pos ((State.wordOk_iff s _).2 (by simpa [addr_add22] using hok))]
    simp [addr_add22, addr_add24]

/-- When a return from an interrupt is refused, and why (R52, R56, R296): as the first pop that is, or for an odd return
address. -/
theorem interruptReturn_eq_refused (s : State) (e : Refusal) :
    interruptReturn s = .refused e ↔
      firstStop [readStop s (s.xy .i3), readStop s (s.xy .i3 + 2), readStop s (s.xy .i3 + 4)] = some e ∨
        ((WordReadable s (s.xy .i3) ∧ WordReadable s (s.xy .i3 + 2) ∧ WordReadable s (s.xy .i3 + 4)) ∧
          ¬ Aligned s (mkAddr (loByte (wordAt s (drawsAfter s s.draws (s.xy .i3)) (s.xy .i3 + 2)))
            (wordAt s (drawsAfter s (drawsAfter s s.draws (s.xy .i3)) (s.xy .i3 + 2)) (s.xy .i3 + 4))) ∧
          e = .oddPc) := by
  simp only [interruptReturn, Res.bind_eq_refused, pop16_eq_refused, pop16_eq_next, popPc_eq_refused, popPc_eq_next,
    drawsAfter_eq, firstStop_cons_eq_some, firstStop_nil, readStop_eq_none]
  constructor
  · rintro (h | ⟨a, ⟨h1, rfl⟩, (h | ⟨h2, h | ⟨_, h⟩⟩) | ⟨b, ⟨⟨h2, h3⟩, rfl⟩, h⟩⟩)
    · exact .inl (.inl h)
    · exact .inl (.inr ⟨h1, .inl (by simpa using h)⟩)
    · exact .inl (.inr ⟨h1, .inr ⟨by simpa using h2, .inl (by simpa [addr_add22] using h)⟩⟩)
    · cases h
    · split at h
      · cases h
      · rename_i hok
        injection h with h
        refine .inr ⟨⟨h1, by simpa using h2, by simpa [addr_add22] using h3⟩, ?_, h.symm⟩
        rw [State.wordOk_iff] at hok
        simpa [addr_add22] using hok
  · rintro ((h | ⟨h1, h | ⟨h2, h | ⟨_, h⟩⟩⟩) | ⟨⟨h1, h2, h3⟩, hok, rfl⟩)
    · exact .inl h
    · exact .inr ⟨_, ⟨h1, rfl⟩, .inl (.inl (by simpa using h))⟩
    · exact .inr ⟨_, ⟨h1, rfl⟩, .inl (.inr ⟨by simpa using h2, .inl (by simpa [addr_add22] using h)⟩)⟩
    · cases h
    · refine .inr ⟨_, ⟨h1, rfl⟩, .inr ⟨_, ⟨⟨by simpa using h2, by simpa [addr_add22] using h3⟩, rfl⟩, ?_⟩⟩
      rw [if_neg]
      rw [State.wordOk_iff]
      simpa [addr_add22] using hok

/-! ### Fetching -/

/-- What a fetch of `k` words answers (R57). -/
theorem fetchWords_eq_next (k : Nat) (a : Addr) (s : State) (r : List Byte × State)
    (h : fetchWords k a s = .next r) : ∃ j, r.2 = s.drawn j ∧ r.1.length = 2 * k := by
  induction k generalizing a s r with
  | zero =>
    simp only [fetchWords, Host.Outcome.next.injEq] at h
    subst h
    exact ⟨0, rfl, rfl⟩
  | succ k ih =>
    simp only [fetchWords, Res.bind_eq_next] at h
    obtain ⟨w, hw, rest, hr, h⟩ := h
    obtain ⟨-, i, hi⟩ := readWordAs_drawn hw
    rw [hi] at hr
    obtain ⟨j, hj, hl⟩ := ih _ _ _ hr
    injection h with h
    subst h
    refine ⟨i + j, by simp [hj], ?_⟩
    simp [wordBytes, hl]
    omega

/-- A fetch changes nothing but the count of free values drawn, and starts at an aligned `pc` (R57). -/
theorem fetch_eq_next (s : State) (r : List Byte × State) (h : fetch s = .next r) :
    Aligned s s.pc ∧ ∃ j, r.2 = s.drawn j := by
  unfold fetch at h
  split at h
  · rename_i he
    simp only [Res.bind_eq_next] at h
    obtain ⟨w, hw, rest, hr, h⟩ := h
    obtain ⟨-, i, hi⟩ := readWordAs_drawn hw
    rw [hi] at hr
    obtain ⟨j, hj, -⟩ := fetchWords_eq_next _ _ _ _ hr
    injection h with h
    subst h
    exact ⟨(State.wordOk_iff s _).1 he, i + j, by simp [hj]⟩
  · cases h

/-- A fetch of words that are in RAM or ROM gives them and changes nothing (R57). -/
theorem fetchWords_memory (k : Nat) (a : Addr) (s : State) (ha : a.toNat % 2 = 0)
    (h : ∀ j, j < 2 * k → s.kind .fetch (a + BitVec.ofNat 24 j) = .ram ∨ s.kind .fetch (a + BitVec.ofNat 24 j) = .rom) :
    fetchWords k a s = .next (wordsFrom s k a, s) := by
  induction k generalizing a with
  | zero => rfl
  | succ k ih =>
    have h0 : s.kind .fetch a = .ram ∨ s.kind .fetch a = .rom := by simpa using h 0 (by omega)
    have h1 : s.kind .fetch (a + 1) = .ram ∨ s.kind .fetch (a + 1) = .rom := by simpa using h 1 (by omega)
    have h2 : (a + 2).toNat % 2 = 0 := by
      rw [BitVec.toNat_add]
      have := a.isLt
      simp
      omega
    have hs : ∀ j, j < 2 * k → s.kind .fetch (a + 2 + BitVec.ofNat 24 j) = .ram ∨
        s.kind .fetch (a + 2 + BitVec.ofNat 24 j) = .rom := by
      intro j hj
      have e : a + 2 + BitVec.ofNat 24 j = a + BitVec.ofNat 24 (j + 2) := by
        rw [BitVec.add_assoc]
        congr 1
        rw [show (2 : Addr) = BitVec.ofNat 24 2 from rfl, ← BitVec.ofNat_add]
        congr 1
        omega
      rw [e]
      exact h (j + 2) (by omega)
    have hw := readWordAs_memory (acc := .fetch) (.inl ha) (by rwa [wordBase_of_even ha]) (by rwa [wordBase_of_even ha])
    rw [fetchWords, hw, Res.bind_next, ih _ h2 hs, Res.bind_next, wordBase_of_even ha]
    rfl

end Sys2Proof.Machine
end

