-- ==== Sys2Proof/Laws/PerInstr.lean ====
section
/-!
SUPPORT. The per-instruction family EncodeWords: the encoder writes as many words as the length rule gives to the first
of them (30_encoding.md R84).
-/

namespace Sys2Proof.Laws

/-- The words of `i` are as many as OP and MODE of its first word say (R84). -/
def EncodeWords.Statement (i : Instr) : Prop := (encodeWords i).length = wordsOf ((encodeWords i).headD 0)

/-- The length depends on OP and MODE alone (R84). -/
theorem wordsOf_iword (op : BitVec 5) (mode : BitVec 2) (r : BitVec 4) (low : BitVec 5) :
    wordsOf (iword op mode r low) = wordsOf (iword op mode 0 0) := by
  simp [wordsOf]

/-- As many words as the length rule gives to a first word written from its parts. -/
theorem words_of_iword {op : BitVec 5} {mode : BitVec 2} (r : BitVec 4) (low : BitVec 5) (rest : List Word)
    (h : rest.length + 1 = wordsOf (iword op mode 0 0)) :
    (iword op mode r low :: rest).length = wordsOf ((iword op mode r low :: rest).headD 0) :=
  h.trans (wordsOf_iword op mode r low).symm

/-- A LOOKUP is one word. -/
theorem words_of_lookup (t : BitVec 7) (n : Idx) :
    [lookupWord t n].length = wordsOf ([lookupWord t n].headD 0) :=
  (wordsOf_lookupWord t n).symm

theorem EncodeWords.nop : EncodeWords.Statement .nop := words_of_iword _ _ _ rfl

theorem EncodeWords.halt (n : Byte) : EncodeWords.Statement (.halt n) := by
  simp [Statement, encodeWords, wordsOf]

theorem EncodeWords.shl4 (n : Idx) : EncodeWords.Statement (.shl4 n) := words_of_lookup _ _

theorem EncodeWords.shr4 (n : Idx) : EncodeWords.Statement (.shr4 n) := words_of_lookup _ _

theorem EncodeWords.asr4 (n : Idx) : EncodeWords.Statement (.asr4 n) := words_of_lookup _ _

theorem EncodeWords.asr8 (n : Idx) : EncodeWords.Statement (.asr8 n) := words_of_lookup _ _

theorem EncodeWords.mulb (n : Idx) : EncodeWords.Statement (.mulb n) := words_of_lookup _ _

theorem EncodeWords.recip (n : Idx) : EncodeWords.Statement (.recip n) := words_of_lookup _ _

theorem EncodeWords.shl (n : Idx) : EncodeWords.Statement (.shl n) := words_of_lookup _ _

theorem EncodeWords.shr (n : Idx) : EncodeWords.Statement (.shr n) := words_of_lookup _ _

theorem EncodeWords.asr (n : Idx) : EncodeWords.Statement (.asr n) := words_of_lookup _ _

theorem EncodeWords.rol (n : Idx) : EncodeWords.Statement (.rol n) := words_of_lookup _ _

theorem EncodeWords.ror (n : Idx) : EncodeWords.Statement (.ror n) := words_of_lookup _ _

theorem EncodeWords.swapb (n : Idx) : EncodeWords.Statement (.swapb n) := words_of_lookup _ _

theorem EncodeWords.high (n : Idx) : EncodeWords.Statement (.high n) := words_of_lookup _ _

theorem EncodeWords.low (n : Idx) : EncodeWords.Statement (.low n) := words_of_lookup _ _

theorem EncodeWords.lookup (t : BitVec 7) (n : Idx) : EncodeWords.Statement (.lookup t n) := words_of_lookup _ _

theorem EncodeWords.incXY (n : Idx) (i : Imm5) : EncodeWords.Statement (.incXY n i) := words_of_iword _ _ _ rfl

theorem EncodeWords.decXY (n : Idx) (i : Imm5) : EncodeWords.Statement (.decXY n i) := words_of_iword _ _ _ rfl

theorem EncodeWords.leaCopy (n : Idx) (m : Idx) : EncodeWords.Statement (.leaCopy n m) := words_of_iword _ _ _ rfl

theorem EncodeWords.leaIdx (n : Idx) (m : Idx) (o : Idx) : EncodeWords.Statement (.leaIdx n m o) := words_of_iword _ _ _ rfl

theorem EncodeWords.leaPc (n : Idx) (off : Word) : EncodeWords.Statement (.leaPc n off) := words_of_iword _ _ _ rfl

theorem EncodeWords.leaOff (n : Idx) (m : Idx) (i : Imm5) : EncodeWords.Statement (.leaOff n m i) := words_of_iword _ _ _ rfl

theorem EncodeWords.seq (dst : Gpr) (v : Word) : EncodeWords.Statement (.seq dst v) := words_of_iword _ _ _ rfl

theorem EncodeWords.sne (dst : Gpr) (v : Word) : EncodeWords.Statement (.sne dst v) := words_of_iword _ _ _ rfl

theorem EncodeWords.scs (dst : Gpr) (v : Word) : EncodeWords.Statement (.scs dst v) := words_of_iword _ _ _ rfl

theorem EncodeWords.scc (dst : Gpr) (v : Word) : EncodeWords.Statement (.scc dst v) := words_of_iword _ _ _ rfl

theorem EncodeWords.slt (dst : Gpr) (v : Word) : EncodeWords.Statement (.slt dst v) := words_of_iword _ _ _ rfl

theorem EncodeWords.sgt (dst : Gpr) (v : Word) : EncodeWords.Statement (.sgt dst v) := words_of_iword _ _ _ rfl

theorem EncodeWords.sge (dst : Gpr) (v : Word) : EncodeWords.Statement (.sge dst v) := words_of_iword _ _ _ rfl

theorem EncodeWords.sle (dst : Gpr) (v : Word) : EncodeWords.Statement (.sle dst v) := words_of_iword _ _ _ rfl

theorem EncodeWords.moveD (dst : MoveDst) (n : Idx) : EncodeWords.Statement (.moveD dst n) := words_of_iword _ _ _ rfl

theorem EncodeWords.moveS (dst : MoveDst) (src : MoveSrc) : EncodeWords.Statement (.moveS dst src) := words_of_iword _ _ _ rfl

theorem EncodeWords.swapD (n : Idx) (r : XYReg) : EncodeWords.Statement (.swapD n r) := words_of_iword _ _ _ rfl

theorem EncodeWords.swapXY (a : XYReg) (b : XYReg) : EncodeWords.Statement (.swapXY a b) := words_of_iword _ _ _ rfl

theorem EncodeWords.pushReg (r : StackReg) (p : Idx) : EncodeWords.Statement (.pushReg r p) := words_of_iword _ _ _ rfl

theorem EncodeWords.pushD (p : Idx) : EncodeWords.Statement (.pushD p) := words_of_iword _ _ _ rfl

theorem EncodeWords.pushXY (n : Idx) (p : Idx) : EncodeWords.Statement (.pushXY n p) := words_of_iword _ _ _ rfl

theorem EncodeWords.pushImm5 (i : Imm5) (p : Idx) : EncodeWords.Statement (.pushImm5 i p) := words_of_iword _ _ _ rfl

theorem EncodeWords.popReg (r : StackReg) (p : Idx) : EncodeWords.Statement (.popReg r p) := words_of_iword _ _ _ rfl

theorem EncodeWords.popD (p : Idx) : EncodeWords.Statement (.popD p) := words_of_iword _ _ _ rfl

theorem EncodeWords.popXY (n : Idx) (p : Idx) : EncodeWords.Statement (.popXY n p) := words_of_iword _ _ _ rfl

theorem EncodeWords.pushi (v : Word) (p : Idx) : EncodeWords.Statement (.pushi v p) := words_of_iword _ _ _ rfl

theorem EncodeWords.addReg (dst : Gpr) (src : Gpr) : EncodeWords.Statement (.addReg dst src) := words_of_iword _ _ _ rfl

theorem EncodeWords.addMem (dst : Gpr) (n : Idx) : EncodeWords.Statement (.addMem dst n) := words_of_iword _ _ _ rfl

theorem EncodeWords.addImm5 (dst : Gpr) (i : Imm5) : EncodeWords.Statement (.addImm5 dst i) := words_of_iword _ _ _ rfl

theorem EncodeWords.addImm16 (dst : Gpr) (v : Word) : EncodeWords.Statement (.addImm16 dst v) := words_of_iword _ _ _ rfl

theorem EncodeWords.adcReg (dst : Gpr) (src : Gpr) : EncodeWords.Statement (.adcReg dst src) := words_of_iword _ _ _ rfl

theorem EncodeWords.adcMem (dst : Gpr) (n : Idx) : EncodeWords.Statement (.adcMem dst n) := words_of_iword _ _ _ rfl

theorem EncodeWords.adcImm5 (dst : Gpr) (i : Imm5) : EncodeWords.Statement (.adcImm5 dst i) := words_of_iword _ _ _ rfl

theorem EncodeWords.adcImm16 (dst : Gpr) (v : Word) : EncodeWords.Statement (.adcImm16 dst v) := words_of_iword _ _ _ rfl

theorem EncodeWords.subReg (dst : Gpr) (src : Gpr) : EncodeWords.Statement (.subReg dst src) := words_of_iword _ _ _ rfl

theorem EncodeWords.subMem (dst : Gpr) (n : Idx) : EncodeWords.Statement (.subMem dst n) := words_of_iword _ _ _ rfl

theorem EncodeWords.subImm5 (dst : Gpr) (i : Imm5) : EncodeWords.Statement (.subImm5 dst i) := words_of_iword _ _ _ rfl

theorem EncodeWords.subImm16 (dst : Gpr) (v : Word) : EncodeWords.Statement (.subImm16 dst v) := words_of_iword _ _ _ rfl

theorem EncodeWords.sbcReg (dst : Gpr) (src : Gpr) : EncodeWords.Statement (.sbcReg dst src) := words_of_iword _ _ _ rfl

theorem EncodeWords.sbcMem (dst : Gpr) (n : Idx) : EncodeWords.Statement (.sbcMem dst n) := words_of_iword _ _ _ rfl

theorem EncodeWords.sbcImm5 (dst : Gpr) (i : Imm5) : EncodeWords.Statement (.sbcImm5 dst i) := words_of_iword _ _ _ rfl

theorem EncodeWords.sbcImm16 (dst : Gpr) (v : Word) : EncodeWords.Statement (.sbcImm16 dst v) := words_of_iword _ _ _ rfl

theorem EncodeWords.andReg (dst : Gpr) (src : Gpr) : EncodeWords.Statement (.andReg dst src) := words_of_iword _ _ _ rfl

theorem EncodeWords.andMem (dst : Gpr) (n : Idx) : EncodeWords.Statement (.andMem dst n) := words_of_iword _ _ _ rfl

theorem EncodeWords.andImm5 (dst : Gpr) (i : Imm5) : EncodeWords.Statement (.andImm5 dst i) := words_of_iword _ _ _ rfl

theorem EncodeWords.andImm16 (dst : Gpr) (v : Word) : EncodeWords.Statement (.andImm16 dst v) := words_of_iword _ _ _ rfl

theorem EncodeWords.orReg (dst : Gpr) (src : Gpr) : EncodeWords.Statement (.orReg dst src) := words_of_iword _ _ _ rfl

theorem EncodeWords.orMem (dst : Gpr) (n : Idx) : EncodeWords.Statement (.orMem dst n) := words_of_iword _ _ _ rfl

theorem EncodeWords.orImm5 (dst : Gpr) (i : Imm5) : EncodeWords.Statement (.orImm5 dst i) := words_of_iword _ _ _ rfl

theorem EncodeWords.orImm16 (dst : Gpr) (v : Word) : EncodeWords.Statement (.orImm16 dst v) := words_of_iword _ _ _ rfl

theorem EncodeWords.xorReg (dst : Gpr) (src : Gpr) : EncodeWords.Statement (.xorReg dst src) := words_of_iword _ _ _ rfl

theorem EncodeWords.xorMem (dst : Gpr) (n : Idx) : EncodeWords.Statement (.xorMem dst n) := words_of_iword _ _ _ rfl

theorem EncodeWords.xorImm5 (dst : Gpr) (i : Imm5) : EncodeWords.Statement (.xorImm5 dst i) := words_of_iword _ _ _ rfl

theorem EncodeWords.xorImm16 (dst : Gpr) (v : Word) : EncodeWords.Statement (.xorImm16 dst v) := words_of_iword _ _ _ rfl

theorem EncodeWords.notReg (dst : Gpr) (src : Gpr) : EncodeWords.Statement (.notReg dst src) := words_of_iword _ _ _ rfl

theorem EncodeWords.notMem (dst : Gpr) (n : Idx) : EncodeWords.Statement (.notMem dst n) := words_of_iword _ _ _ rfl

theorem EncodeWords.notSelf (dst : Gpr) : EncodeWords.Statement (.notSelf dst) := words_of_iword _ _ _ rfl

theorem EncodeWords.cmpReg (dst : Gpr) (src : Gpr) : EncodeWords.Statement (.cmpReg dst src) := words_of_iword _ _ _ rfl

theorem EncodeWords.cmpMem (dst : Gpr) (n : Idx) : EncodeWords.Statement (.cmpMem dst n) := words_of_iword _ _ _ rfl

theorem EncodeWords.cmpImm5 (dst : Gpr) (i : Imm5) : EncodeWords.Statement (.cmpImm5 dst i) := words_of_iword _ _ _ rfl

theorem EncodeWords.cmpImm16 (dst : Gpr) (v : Word) : EncodeWords.Statement (.cmpImm16 dst v) := words_of_iword _ _ _ rfl

theorem EncodeWords.beqS (i : Imm5) : EncodeWords.Statement (.beqS i) := words_of_iword _ _ _ rfl

theorem EncodeWords.bneS (i : Imm5) : EncodeWords.Statement (.bneS i) := words_of_iword _ _ _ rfl

theorem EncodeWords.bcsS (i : Imm5) : EncodeWords.Statement (.bcsS i) := words_of_iword _ _ _ rfl

theorem EncodeWords.bccS (i : Imm5) : EncodeWords.Statement (.bccS i) := words_of_iword _ _ _ rfl

theorem EncodeWords.bltS (i : Imm5) : EncodeWords.Statement (.bltS i) := words_of_iword _ _ _ rfl

theorem EncodeWords.bgtS (i : Imm5) : EncodeWords.Statement (.bgtS i) := words_of_iword _ _ _ rfl

theorem EncodeWords.bgeS (i : Imm5) : EncodeWords.Statement (.bgeS i) := words_of_iword _ _ _ rfl

theorem EncodeWords.bleS (i : Imm5) : EncodeWords.Statement (.bleS i) := words_of_iword _ _ _ rfl

theorem EncodeWords.beqL (off : Word) : EncodeWords.Statement (.beqL off) := words_of_iword _ _ _ rfl

theorem EncodeWords.bneL (off : Word) : EncodeWords.Statement (.bneL off) := words_of_iword _ _ _ rfl

theorem EncodeWords.bcsL (off : Word) : EncodeWords.Statement (.bcsL off) := words_of_iword _ _ _ rfl

theorem EncodeWords.bccL (off : Word) : EncodeWords.Statement (.bccL off) := words_of_iword _ _ _ rfl

theorem EncodeWords.bltL (off : Word) : EncodeWords.Statement (.bltL off) := words_of_iword _ _ _ rfl

theorem EncodeWords.bgtL (off : Word) : EncodeWords.Statement (.bgtL off) := words_of_iword _ _ _ rfl

theorem EncodeWords.bgeL (off : Word) : EncodeWords.Statement (.bgeL off) := words_of_iword _ _ _ rfl

theorem EncodeWords.bleL (off : Word) : EncodeWords.Statement (.bleL off) := words_of_iword _ _ _ rfl

theorem EncodeWords.braS (i : Imm5) : EncodeWords.Statement (.braS i) := words_of_iword _ _ _ rfl

theorem EncodeWords.braL (off : Word) : EncodeWords.Statement (.braL off) := words_of_iword _ _ _ rfl

theorem EncodeWords.jmp24 (addr : Addr) : EncodeWords.Statement (.jmp24 addr) := words_of_iword _ _ _ rfl

theorem EncodeWords.jmp16 (addr : Word) : EncodeWords.Statement (.jmp16 addr) := words_of_iword _ _ _ rfl

theorem EncodeWords.jmpt (n : Idx) (m : Idx) : EncodeWords.Statement (.jmpt n m) := words_of_iword _ _ _ rfl

theorem EncodeWords.jmpxy (n : Idx) : EncodeWords.Statement (.jmpxy n) := words_of_iword _ _ _ rfl

theorem EncodeWords.call24 (addr : Addr) : EncodeWords.Statement (.call24 addr) := words_of_iword _ _ _ rfl

theorem EncodeWords.call16 (addr : Word) : EncodeWords.Statement (.call16 addr) := words_of_iword _ _ _ rfl

theorem EncodeWords.callr (off : Word) : EncodeWords.Statement (.callr off) := words_of_iword _ _ _ rfl

theorem EncodeWords.ret (i : Imm5) : EncodeWords.Statement (.ret i) := words_of_iword _ _ _ rfl

theorem EncodeWords.loaddInd (r : Idx) (n : Idx) : EncodeWords.Statement (.loaddInd r n) := words_of_iword _ _ _ rfl

theorem EncodeWords.loaddIdx (r : Idx) (n : Idx) (m : Idx) : EncodeWords.Statement (.loaddIdx r n m) := words_of_iword _ _ _ rfl

theorem EncodeWords.loaddPc (r : Idx) (off : Word) : EncodeWords.Statement (.loaddPc r off) := words_of_iword _ _ _ rfl

theorem EncodeWords.loaddOff (r : Idx) (n : Idx) (i : Imm5) : EncodeWords.Statement (.loaddOff r n i) := words_of_iword _ _ _ rfl

theorem EncodeWords.loadbInd (r : Idx) (n : Idx) : EncodeWords.Statement (.loadbInd r n) := words_of_iword _ _ _ rfl

theorem EncodeWords.loadbIdx (r : Idx) (n : Idx) (m : Idx) : EncodeWords.Statement (.loadbIdx r n m) := words_of_iword _ _ _ rfl

theorem EncodeWords.loadbPc (r : Idx) (off : Word) : EncodeWords.Statement (.loadbPc r off) := words_of_iword _ _ _ rfl

theorem EncodeWords.loadbOff (r : Idx) (n : Idx) (i : Imm5) : EncodeWords.Statement (.loadbOff r n i) := words_of_iword _ _ _ rfl

theorem EncodeWords.loadxInd (r : Idx) (n : Idx) : EncodeWords.Statement (.loadxInd r n) := words_of_iword _ _ _ rfl

theorem EncodeWords.loadxIdx (r : Idx) (n : Idx) (m : Idx) : EncodeWords.Statement (.loadxIdx r n m) := words_of_iword _ _ _ rfl

theorem EncodeWords.loadxPc (r : Idx) (off : Word) : EncodeWords.Statement (.loadxPc r off) := words_of_iword _ _ _ rfl

theorem EncodeWords.loadxOff (r : Idx) (n : Idx) (i : Imm5) : EncodeWords.Statement (.loadxOff r n i) := words_of_iword _ _ _ rfl

theorem EncodeWords.loadyInd (r : Idx) (n : Idx) : EncodeWords.Statement (.loadyInd r n) := words_of_iword _ _ _ rfl

theorem EncodeWords.loadyIdx (r : Idx) (n : Idx) (m : Idx) : EncodeWords.Statement (.loadyIdx r n m) := words_of_iword _ _ _ rfl

theorem EncodeWords.loadyPc (r : Idx) (off : Word) : EncodeWords.Statement (.loadyPc r off) := words_of_iword _ _ _ rfl

theorem EncodeWords.loadyOff (r : Idx) (n : Idx) (i : Imm5) : EncodeWords.Statement (.loadyOff r n i) := words_of_iword _ _ _ rfl

theorem EncodeWords.loadiImm5 (dst : Gpr) (i : Imm5) : EncodeWords.Statement (.loadiImm5 dst i) := words_of_iword _ _ _ rfl

theorem EncodeWords.loadiImm16 (dst : Gpr) (v : Word) : EncodeWords.Statement (.loadiImm16 dst v) := words_of_iword _ _ _ rfl

theorem EncodeWords.loadxy (n : Idx) (m : Idx) : EncodeWords.Statement (.loadxy n m) := words_of_iword _ _ _ rfl

theorem EncodeWords.loadp (dst : Gpr) (n : Idx) (off : Word) : EncodeWords.Statement (.loadp dst n off) := words_of_iword _ _ _ rfl

theorem EncodeWords.loadpb (dst : Gpr) (n : Idx) (off : Word) : EncodeWords.Statement (.loadpb dst n off) := words_of_iword _ _ _ rfl

theorem EncodeWords.storedInd (r : Idx) (n : Idx) : EncodeWords.Statement (.storedInd r n) := words_of_iword _ _ _ rfl

theorem EncodeWords.storedIdx (r : Idx) (n : Idx) (m : Idx) : EncodeWords.Statement (.storedIdx r n m) := words_of_iword _ _ _ rfl

theorem EncodeWords.storedPc (r : Idx) (off : Word) : EncodeWords.Statement (.storedPc r off) := words_of_iword _ _ _ rfl

theorem EncodeWords.storedOff (r : Idx) (n : Idx) (i : Imm5) : EncodeWords.Statement (.storedOff r n i) := words_of_iword _ _ _ rfl

theorem EncodeWords.storebInd (r : Idx) (n : Idx) : EncodeWords.Statement (.storebInd r n) := words_of_iword _ _ _ rfl

theorem EncodeWords.storebIdx (r : Idx) (n : Idx) (m : Idx) : EncodeWords.Statement (.storebIdx r n m) := words_of_iword _ _ _ rfl

theorem EncodeWords.storebPc (r : Idx) (off : Word) : EncodeWords.Statement (.storebPc r off) := words_of_iword _ _ _ rfl

theorem EncodeWords.storebOff (r : Idx) (n : Idx) (i : Imm5) : EncodeWords.Statement (.storebOff r n i) := words_of_iword _ _ _ rfl

theorem EncodeWords.storexInd (r : Idx) (n : Idx) : EncodeWords.Statement (.storexInd r n) := words_of_iword _ _ _ rfl

theorem EncodeWords.storexIdx (r : Idx) (n : Idx) (m : Idx) : EncodeWords.Statement (.storexIdx r n m) := words_of_iword _ _ _ rfl

theorem EncodeWords.storexPc (r : Idx) (off : Word) : EncodeWords.Statement (.storexPc r off) := words_of_iword _ _ _ rfl

theorem EncodeWords.storexOff (r : Idx) (n : Idx) (i : Imm5) : EncodeWords.Statement (.storexOff r n i) := words_of_iword _ _ _ rfl

theorem EncodeWords.storeyInd (r : Idx) (n : Idx) : EncodeWords.Statement (.storeyInd r n) := words_of_iword _ _ _ rfl

theorem EncodeWords.storeyIdx (r : Idx) (n : Idx) (m : Idx) : EncodeWords.Statement (.storeyIdx r n m) := words_of_iword _ _ _ rfl

theorem EncodeWords.storeyPc (r : Idx) (off : Word) : EncodeWords.Statement (.storeyPc r off) := words_of_iword _ _ _ rfl

theorem EncodeWords.storeyOff (r : Idx) (n : Idx) (i : Imm5) : EncodeWords.Statement (.storeyOff r n i) := words_of_iword _ _ _ rfl

theorem EncodeWords.storeiImm5 (i : Imm5) (n : Idx) : EncodeWords.Statement (.storeiImm5 i n) := words_of_iword _ _ _ rfl

theorem EncodeWords.storeiImm16 (v : Word) (n : Idx) : EncodeWords.Statement (.storeiImm16 v n) := words_of_iword _ _ _ rfl

theorem EncodeWords.storexy (n : Idx) (m : Idx) : EncodeWords.Statement (.storexy n m) := words_of_iword _ _ _ rfl

theorem EncodeWords.storep (src : Gpr) (n : Idx) (off : Word) : EncodeWords.Statement (.storep src n off) := words_of_iword _ _ _ rfl

theorem EncodeWords.storepb (src : Gpr) (n : Idx) (off : Word) : EncodeWords.Statement (.storepb src n off) := words_of_iword _ _ _ rfl

theorem EncodeWords.dint : EncodeWords.Statement .dint := words_of_iword _ _ _ rfl

theorem EncodeWords.eint : EncodeWords.Statement .eint := words_of_iword _ _ _ rfl

theorem EncodeWords.rti : EncodeWords.Statement .rti := words_of_iword _ _ _ rfl

theorem EncodeWords.int : EncodeWords.Statement .int := words_of_iword _ _ _ rfl

end Sys2Proof.Laws
end

