-- ==== Sys2Proof/Machine/Asm.lean ====
section
/-!
DEFINITION. The assembler's choices and aliases, as functions to instruction terms (30_encoding.md R107, R109, R111
to R114). Its text level (lines, operand syntax, expressions) is out of scope (00_scope.md R6). No step uses this file.
-/

namespace Sys2Proof.Machine

/-- Automatic immediate size (R109): the IMM5 form for 0 to 31, else the IMM16 form. A negative value does not fit
IMM5. -/
def asmSized (v : Int) (short : Imm5 → Instr) (long : Word → Instr) : Instr :=
  if 0 ≤ v ∧ v ≤ 31 then short (BitVec.ofInt 5 v) else long (BitVec.ofInt 16 v)

/-- `LOADI reg, #v` (R109). -/
def asmLoadi (g : Gpr) (v : Int) : Instr := asmSized v (.loadiImm5 g) (.loadiImm16 g)

/-- `ADD reg, #v` (R109). -/
def asmAdd (g : Gpr) (v : Int) : Instr := asmSized v (.addImm5 g) (.addImm16 g)

/-- `ADC reg, #v` (R109). -/
def asmAdc (g : Gpr) (v : Int) : Instr := asmSized v (.adcImm5 g) (.adcImm16 g)

/-- `SUB reg, #v` (R109). -/
def asmSub (g : Gpr) (v : Int) : Instr := asmSized v (.subImm5 g) (.subImm16 g)

/-- `SBC reg, #v` (R109). -/
def asmSbc (g : Gpr) (v : Int) : Instr := asmSized v (.sbcImm5 g) (.sbcImm16 g)

/-- `AND reg, #v` (R109). -/
def asmAnd (g : Gpr) (v : Int) : Instr := asmSized v (.andImm5 g) (.andImm16 g)

/-- `OR reg, #v` (R109). -/
def asmOr (g : Gpr) (v : Int) : Instr := asmSized v (.orImm5 g) (.orImm16 g)

/-- `XOR reg, #v` (R109). -/
def asmXor (g : Gpr) (v : Int) : Instr := asmSized v (.xorImm5 g) (.xorImm16 g)

/-- `CMP reg, #v` (R109). -/
def asmCmp (g : Gpr) (v : Int) : Instr := asmSized v (.cmpImm5 g) (.cmpImm16 g)

/-- `STOREI #v, [XYn]` (R109). -/
def asmStorei (v : Int) (n : Idx) : Instr := asmSized v (.storeiImm5 · n) (.storeiImm16 · n)

/-- `PUSH #v, XYp` (R109, R114): $06 mode 11, or PUSHI. -/
def asmPush (v : Int) (p : Idx) : Instr := asmSized v (.pushImm5 · p) (.pushi · p)

/-- `INC reg, #v` is `ADD reg, #v`, and `INC reg` has v = 1 (R114, R178). -/
def asmIncReg (g : Gpr) (v : Int := 1) : Instr := asmAdd g v

/-- `DEC reg, #v` is `SUB reg, #v`, and `DEC reg` has v = 1 (R114, R178). -/
def asmDecReg (g : Gpr) (v : Int := 1) : Instr := asmSub g v

/-- `INC XYn` is `INC XYn, #2` (R114). -/
def asmIncXY (n : Idx) : Instr := .incXY n 2

/-- `DEC XYn` is `DEC XYn, #2` (R114). -/
def asmDecXY (n : Idx) : Instr := .decXY n 2

/-- `JMP addr` is `JMP24 addr` (R114). -/
def asmJmp (a : Addr) : Instr := .jmp24 a

/-- `CALL addr` is `CALL24 addr` (R114). -/
def asmCall (a : Addr) : Instr := .call24 a

/-- `RET` is `RET #0` (R114). -/
def asmRet : Instr := .ret 0

/-- `HALT` is `HALT #0` (R114). -/
def asmHalt : Instr := .halt 0

/-- `Scc dst` is `Scc dst, #$0000` (R114, R234). -/
def asmScc (c : Cond) (dst : Gpr) : Instr := sccInstr c dst 0

/-- `PUSH reg` has the default stack XY3 (R114, R271). -/
def asmPushReg (r : StackReg) : Instr := .pushReg r .i3

/-- `POP reg` has the default stack XY3 (R114, R271). -/
def asmPopReg (r : StackReg) : Instr := .popReg r .i3

/-- `LOOKUP Dn, #page` (R90, R201): an odd page cannot be encoded. -/
def asmLookup (n : Idx) (page : Byte) : Option Instr :=
  if page.getLsbD 0 then none else some (lookupInstr (page.extractLsb' 1 7) n)

/-- `BHS.S`, another name of `BCS.S` (R114). -/
def asmBhsS (i : Imm5) : Instr := .bcsS i

/-- `BLO.S`, another name of `BCC.S` (R114). -/
def asmBloS (i : Imm5) : Instr := .bccS i

/-- `BHS.L`, another name of `BCS.L` (R114). -/
def asmBhsL (off : Word) : Instr := .bcsL off

/-- `BLO.L`, another name of `BCC.L` (R114). -/
def asmBloL (off : Word) : Instr := .bccL off

/-- `SHS`, another name of `SCS` (R114). -/
def asmShs (dst : Gpr) (v : Word) : Instr := .scs dst v

/-- `SLO`, another name of `SCC` (R114). -/
def asmSlo (dst : Gpr) (v : Word) : Instr := .scc dst v

/-- The suffix `w`: a number multiplied by 2 (R111). -/
def asmWords (n : Int) : Int := 2 * n

/-- `#>expr`: bits 23:16 of a 24-bit value (R112). -/
def asmHigh (a : Addr) : Byte := bankOf a

/-- `#<expr`, and plain `#symbol`: bits 15:0 of a 24-bit value (R112). -/
def asmLow (a : Addr) : Word := offsetOf a

/-- The PC-relative operand `label - next_pc`, if 16 signed bits hold it (R113). -/
def asmOffset (label nextPc : Addr) : Option Word :=
  let off := label - nextPc
  if (off.setWidth 16).signExtend 24 = off then some (off.setWidth 16) else none

/-- The operand of a `.S` branch: a target 0 to 31 bytes after `next_pc` (R113). -/
def asmShort (label nextPc : Addr) : Option Imm5 :=
  let off := label - nextPc
  if off.toNat ≤ 31 then some (off.setWidth 5) else none

/-- Bytes as words, the first byte of each pair in the high byte (R107). -/
def packWords : List Byte → List Word
  | hi :: lo :: rest => (hi ++ lo) :: packWords rest
  | _ => []

/-- `.TEXT`: the characters, a null terminator, and one more null if that ends inside a word (R107). -/
def asmText (cs : List Byte) : List Word :=
  if cs.length % 2 = 0 then packWords (cs ++ [0, 0]) else packWords (cs ++ [0])

end Sys2Proof.Machine
end

