-- ==== Sys2Proof/Tests/Slice0.lean ====
section
/-!
SUPPORT. Tests: what WellFormed refuses, the decoding of one word for every constructor, single steps from
95_test_vectors.md, and for every statement with hypotheses a witness that meets them.
-/

namespace Sys2Proof.Tests

open Sys2Proof.Machine Sys2Proof.Safety

/-! ### WellFormed -/

/-- The named page $04 (table number 2) is no page of the generic LOOKUP (R116). -/
theorem test_wf_refuses_first_named_page : (Instr.lookup 2 .i0).wellFormed = false := by decide

/-- The named page $1E (table number 15) is no page of the generic LOOKUP (R116). -/
theorem test_wf_refuses_last_named_page : (Instr.lookup 15 .i0).wellFormed = false := by decide

/-! ### Decoding -/

/-- Every byte string decodes to the instruction beside it, and nothing is left over. -/
def decodesTo (l : List (List Byte × Instr)) : Bool := l.all fun p => decide (decode p.1 = .ok (p.2, []))

/-- Words written from R89 and R103 and the rows of spec/opcode_table.json. -/
theorem test_decode_misc :
    decodesTo
      [([0x00, 0x00], .nop),
        ([0x02, 0xA7], .halt 0xA7),
        ([0xF8, 0x00], .dint),
        ([0xFA, 0x00], .eint),
        ([0xFC, 0x00], .rti),
        ([0xFE, 0x00], .int)] = true := by decide

/-- Words written from R90 and the rows of spec/opcode_table.json. -/
theorem test_decode_lookup :
    decodesTo
      [([0x0C, 0x00], .shl4 .i0),
        ([0x0E, 0x01], .shr4 .i1),
        ([0x08, 0x12], .asr4 .i2),
        ([0x0A, 0x13], .asr8 .i3),
        ([0x0C, 0x10], .mulb .i0),
        ([0x0E, 0x11], .recip .i1),
        ([0x08, 0x22], .shl .i2),
        ([0x0A, 0x23], .shr .i3),
        ([0x0C, 0x20], .asr .i0),
        ([0x0E, 0x21], .rol .i1),
        ([0x08, 0x32], .ror .i2),
        ([0x0A, 0x33], .swapb .i3),
        ([0x0C, 0x30], .high .i0),
        ([0x0E, 0x31], .low .i1),
        ([0x0B, 0x52], .lookup 0x55 .i2)] = true := by decide

/-- Words written from R91 and R92 and the rows of spec/opcode_table.json. -/
theorem test_decode_pairs :
    decodesTo
      [([0x10, 0x2D], .incXY .i1 13),
        ([0x12, 0x5F], .decXY .i2 31),
        ([0x19, 0x00], .leaCopy .i0 .i2),
        ([0x1B, 0x82], .leaIdx .i0 .i3 .i2),
        ([0x1C, 0x60, 0x81, 0x38], .leaPc .i3 0x8138),
        ([0x1F, 0x7F], .leaOff .i3 .i2 31)] = true := by decide

/-- Words written from R93 and the rows of spec/opcode_table.json. -/
theorem test_decode_scc :
    decodesTo
      [([0x20, 0x60, 0x81, 0x3A], .seq (.d .i3) 0x813A),
        ([0x21, 0x41, 0x81, 0x3B], .sne (.y .i2) 0x813B),
        ([0x20, 0xA2, 0x81, 0x3C], .scs (.x .i1) 0x813C),
        ([0x20, 0x43, 0x81, 0x3D], .scc (.d .i2) 0x813D),
        ([0x20, 0xE4, 0x81, 0x3E], .slt (.x .i3) 0x813E),
        ([0x21, 0x05, 0x81, 0x3F], .sgt (.y .i0) 0x813F),
        ([0x20, 0x66, 0x81, 0x40], .sge (.d .i3) 0x8140),
        ([0x21, 0x47, 0x81, 0x41], .sle (.y .i2) 0x8141)] = true := by decide

/-- Words written from R94 and the rows of spec/opcode_table.json. -/
theorem test_decode_move_swap :
    decodesTo
      [([0x29, 0xA1], .moveD .sr .i1),
        ([0x2B, 0xEE], .moveS .pcl .pch),
        ([0x2C, 0x2B], .swapD .i1 (.y .i3)),
        ([0x2E, 0xC9], .swapXY (.x .i2) (.y .i1))] = true := by decide

/-- Words written from R95 and R96 and the rows of spec/opcode_table.json. -/
theorem test_decode_stack :
    decodesTo
      [([0x31, 0xA1], .pushReg .sr .i1),
        ([0x32, 0x02], .pushD .i2),
        ([0x34, 0x03], .pushXY .i0 .i3),
        ([0x37, 0x9F], .pushImm5 31 .i3),
        ([0x38, 0xC1], .popReg (.gpr (.x .i2)) .i1),
        ([0x3A, 0x02], .popD .i2),
        ([0x3C, 0x23], .popXY .i1 .i3),
        ([0x3E, 0x00, 0x81, 0x4D], .pushi 0x814D .i0)] = true := by decide

/-- Words written from R97 and the rows of spec/opcode_table.json. -/
theorem test_decode_add_adc :
    decodesTo
      [([0x40, 0xA1], .addReg (.x .i1) (.d .i1)),
        ([0x42, 0x42], .addMem (.d .i2) .i2),
        ([0x44, 0xED], .addImm5 (.x .i3) 13),
        ([0x47, 0x00, 0x81, 0x51], .addImm16 (.y .i0) 0x8151),
        ([0x48, 0x66], .adcReg (.d .i3) (.x .i2)),
        ([0x4B, 0x42], .adcMem (.y .i2) .i2),
        ([0x4C, 0xAD], .adcImm5 (.x .i1) 13),
        ([0x4E, 0x40, 0x81, 0x55], .adcImm16 (.d .i2) 0x8155)] = true := by decide

/-- Words written from R97 and the rows of spec/opcode_table.json. -/
theorem test_decode_sub_sbc :
    decodesTo
      [([0x50, 0xEB], .subReg (.x .i3) (.y .i3)),
        ([0x53, 0x02], .subMem (.y .i0) .i2),
        ([0x54, 0x6D], .subImm5 (.d .i3) 13),
        ([0x57, 0x40, 0x81, 0x59], .subImm16 (.y .i2) 0x8159),
        ([0x58, 0xA5], .sbcReg (.x .i1) (.x .i1)),
        ([0x5A, 0x42], .sbcMem (.d .i2) .i2),
        ([0x5C, 0xED], .sbcImm5 (.x .i3) 13),
        ([0x5F, 0x00, 0x81, 0x5D], .sbcImm16 (.y .i0) 0x815D)] = true := by decide

/-- Words written from R97 and the rows of spec/opcode_table.json. -/
theorem test_decode_and_or :
    decodesTo
      [([0x60, 0x69], .andReg (.d .i3) (.y .i1)),
        ([0x63, 0x42], .andMem (.y .i2) .i2),
        ([0x64, 0xAD], .andImm5 (.x .i1) 13),
        ([0x66, 0x40, 0x81, 0x61], .andImm16 (.d .i2) 0x8161),
        ([0x68, 0xE1], .orReg (.x .i3) (.d .i1)),
        ([0x6B, 0x02], .orMem (.y .i0) .i2),
        ([0x6C, 0x6D], .orImm5 (.d .i3) 13),
        ([0x6F, 0x40, 0x81, 0x65], .orImm16 (.y .i2) 0x8165)] = true := by decide

/-- Words written from R97 and R98 and the rows of spec/opcode_table.json. -/
theorem test_decode_xor_not :
    decodesTo
      [([0x70, 0xA6], .xorReg (.x .i1) (.x .i2)),
        ([0x72, 0x42], .xorMem (.d .i2) .i2),
        ([0x74, 0xED], .xorImm5 (.x .i3) 13),
        ([0x77, 0x00, 0x81, 0x69], .xorImm16 (.y .i0) 0x8169),
        ([0x78, 0x6B], .notReg (.d .i3) (.y .i3)),
        ([0x7B, 0x42], .notMem (.y .i2) .i2),
        ([0x7C, 0xA0], .notSelf (.x .i1))] = true := by decide

/-- Words written from R97 and the rows of spec/opcode_table.json. -/
theorem test_decode_cmp :
    decodesTo
      [([0x80, 0x49], .cmpReg (.d .i2) (.y .i1)),
        ([0x82, 0xE1], .cmpMem (.x .i3) .i1),
        ([0x85, 0x16], .cmpImm5 (.y .i0) 22),
        ([0x86, 0x60, 0x81, 0x70], .cmpImm16 (.d .i3) 0x8170)] = true := by decide

/-- Words written from R99 and the rows of spec/opcode_table.json. -/
theorem test_decode_branch :
    decodesTo
      [([0x88, 0x1F], .beqS 31),
        ([0x88, 0x29], .bneS 9),
        ([0x88, 0x56], .bcsS 22),
        ([0x88, 0x6D], .bccS 13),
        ([0x88, 0x9F], .bltS 31),
        ([0x88, 0xA9], .bgtS 9),
        ([0x88, 0xD6], .bgeS 22),
        ([0x88, 0xED], .bleS 13),
        ([0x8A, 0x00, 0x81, 0x79], .beqL 0x8179),
        ([0x8A, 0x20, 0x81, 0x7A], .bneL 0x817A),
        ([0x8A, 0x40, 0x81, 0x7B], .bcsL 0x817B),
        ([0x8A, 0x60, 0x81, 0x7C], .bccL 0x817C),
        ([0x8A, 0x80, 0x81, 0x7D], .bltL 0x817D),
        ([0x8A, 0xA0, 0x81, 0x7E], .bgtL 0x817E),
        ([0x8A, 0xC0, 0x81, 0x7F], .bgeL 0x817F),
        ([0x8A, 0xE0, 0x81, 0x80], .bleL 0x8180),
        ([0x8C, 0x1F], .braS 31),
        ([0x8E, 0x00, 0x81, 0x82], .braL 0x8182)] = true := by decide

/-- Words written from R100 and R101 and the rows of spec/opcode_table.json. -/
theorem test_decode_jump_call :
    decodesTo
      [([0x90, 0x00, 0x00, 0x81, 0x23, 0x44], .jmp24 0x812344),
        ([0x92, 0x00, 0x81, 0x84], .jmp16 0x8184),
        ([0x95, 0x80], .jmpt .i3 .i0),
        ([0x96, 0x80], .jmpxy .i1),
        ([0x98, 0x00, 0x00, 0x81, 0x23, 0x44], .call24 0x812344),
        ([0x9A, 0x00, 0x81, 0x88], .call16 0x8188),
        ([0x9C, 0x00, 0x81, 0x89], .callr 0x8189),
        ([0x9E, 0x09], .ret 9)] = true := by decide

/-- Words written from R102 and the rows of spec/opcode_table.json. -/
theorem test_decode_load_d_b :
    decodesTo
      [([0xA1, 0x80], .loaddInd .i0 .i3),
        ([0xA2, 0xE3], .loaddIdx .i3 .i1 .i3),
        ([0xA4, 0x60, 0x81, 0x8D], .loaddPc .i3 0x818D),
        ([0xA7, 0xA9], .loaddOff .i1 .i3 9),
        ([0xA8, 0xC0], .loadbInd .i2 .i1),
        ([0xAB, 0x03], .loadbIdx .i0 .i2 .i3),
        ([0xAC, 0x00, 0x81, 0x91], .loadbPc .i0 0x8191),
        ([0xAE, 0xE9], .loadbOff .i3 .i1 9)] = true := by decide

/-- Words written from R102 and the rows of spec/opcode_table.json. -/
theorem test_decode_load_x_y :
    decodesTo
      [([0xB1, 0x60], .loadxInd .i3 .i2),
        ([0xB3, 0xA3], .loadxIdx .i1 .i3 .i3),
        ([0xB4, 0x40, 0x81, 0x95], .loadxPc .i2 0x8195),
        ([0xB7, 0x09], .loadxOff .i0 .i2 9),
        ([0xB9, 0x80], .loadyInd .i0 .i3),
        ([0xBA, 0xE3], .loadyIdx .i3 .i1 .i3),
        ([0xBC, 0x60, 0x81, 0x99], .loadyPc .i3 0x8199),
        ([0xBF, 0xA9], .loadyOff .i1 .i3 9)] = true := by decide

/-- Words written from R103 and the rows of spec/opcode_table.json. -/
theorem test_decode_load_imm_pair_paged :
    decodesTo
      [([0xC1, 0x56], .loadiImm5 (.y .i2) 22),
        ([0xC2, 0xA0, 0x81, 0x9C], .loadiImm16 (.x .i1) 0x819C),
        ([0xC5, 0x80], .loadxy .i0 .i3),
        ([0xC6, 0xE1, 0x81, 0x9E], .loadp (.x .i3) .i1 0x819E),
        ([0xC7, 0x12, 0x81, 0x9F], .loadpb (.y .i0) .i2 0x819F)] = true := by decide

/-- Words written from R102 and the rows of spec/opcode_table.json. -/
theorem test_decode_store_d_b :
    decodesTo
      [([0xC9, 0xA0], .storedInd .i1 .i3),
        ([0xCA, 0xC0], .storedIdx .i2 .i1 .i0),
        ([0xCC, 0x00, 0x81, 0xA2], .storedPc .i0 0x81A2),
        ([0xCF, 0x96], .storedOff .i0 .i3 22),
        ([0xD0, 0xE0], .storebInd .i3 .i1),
        ([0xD3, 0x60], .storebIdx .i3 .i2 .i0),
        ([0xD4, 0x20, 0x81, 0xA6], .storebPc .i1 0x81A6),
        ([0xD6, 0xD6], .storebOff .i2 .i1 22)] = true := by decide

/-- Words written from R102 and the rows of spec/opcode_table.json. -/
theorem test_decode_store_x_y :
    decodesTo
      [([0xD9, 0x00], .storexInd .i0 .i2),
        ([0xDB, 0x80], .storexIdx .i0 .i3 .i0),
        ([0xDC, 0x60, 0x81, 0xAA], .storexPc .i3 0x81AA),
        ([0xDF, 0x76], .storexOff .i3 .i2 22),
        ([0xE1, 0xA0], .storeyInd .i1 .i3),
        ([0xE2, 0xC0], .storeyIdx .i2 .i1 .i0),
        ([0xE4, 0x00, 0x81, 0xAE], .storeyPc .i0 0x81AE),
        ([0xE7, 0x96], .storeyOff .i0 .i3 22)] = true := by decide

/-- Words written from R103 and the rows of spec/opcode_table.json. -/
theorem test_decode_store_imm_pair_paged :
    decodesTo
      [([0xE8, 0x8D], .storeiImm5 13 .i1),
        ([0xEB, 0x00, 0x81, 0xB1], .storeiImm16 0x81B1 .i2),
        ([0xED, 0xA0], .storexy .i1 .i3),
        ([0xEF, 0x42, 0x81, 0xB3], .storep (.y .i2) .i2 0x81B3),
        ([0xEE, 0xB3, 0x81, 0xB4], .storepb (.x .i1) .i3 0x81B4)] = true := by decide

/-- A must-be-zero bit, a register code that the form does not admit, a high byte of a bank word and a missing extension
word are refused, each by name (R104). -/
theorem test_decode_refusals :
    decode [0x00, 0x01] = .error .mustBeZero ∧ decode [0x41, 0x8D] = .error .registerCode ∧
      decode [0x90, 0x00, 0x01, 0x12, 0x34, 0x56] = .error .bankHighByte ∧ decode [0xF0, 0x00] = .error .spareOpcode ∧
      decode [0x7E, 0x00] = .error .reservedMode ∧ decode [0x92, 0x00] = .error .truncated := by decide

/-- The host's numbering: the first word is in bits 15 to 0, and operand words without bits are zero. -/
theorem test_table_word :
    decodeTableWord 16 0x4001 = some (.addReg (.d .i0) (.d .i1)) ∧
      decodeTableWord 32 0x12344680 = some (.addImm16 (.x .i0) 0x1234) ∧
      decodeTableWord 16 0x9800 = some (.call24 0) := by decide

/-! ### Single steps

Each runs one instruction, given by its bytes at `pc`, or one interrupt entry. Expected values are those of
95_test_vectors.md section 2. -/

/-- One step with an instruction at `pc`. -/
def runAt (pc : Addr) (bytes : List Byte) (s : State) : Res State := step ({ s with pc := pc }.placed bytes)

/-- What is seen of the next state, if there is one. -/
def see {α : Type} (r : Res State) (f : State → α) : Option α :=
  match r with
  | .next t => some (f t)
  | .refused _ => none

/-- Why there is no next state, if a refusal says so. -/
def refusal (r : Res State) : Option Refusal :=
  match r with
  | .next _ => none
  | .refused e => some e

/-- C, Z, N and V. -/
def czn (s : State) : Bool × Bool × Bool × Bool := (s.c, s.z, s.n, s.v)

/-- The reset state with D0, D1 and C given. -/
def ds (d0 d1 : Word) (c : Bool) : State := { State.reset with d := ⟨d0, d1, 0, 0⟩, c := c }

/-- The reset state with a pair given. -/
def at' (n : Idx) (a : Addr) (s : State) : State := s.setXY n a

/-- A state with bytes in memory, where loads read them. -/
def holding (a : Addr) (bytes : List Byte) (s : State) : State := s.putBytes .load a bytes

/-- Section 2.1: `ADD D0, D1` of $8000 and $8000. -/
theorem test_add_carry_and_overflow :
    see (runAt 0x100 [0x40, 0x01] (ds 0x8000 0x8000 false)) (fun t => (t.d.r0, czn t, t.pc)) =
      some (0, (true, true, false, true), 0x102) := by decide

/-- Section 2.1: `ADC Y0, #0` with Y0 = $FF and C = 1: the flags are those of the 16-bit result $0100 (R176). -/
theorem test_adc_on_y :
    see (runAt 0x100 [0x4D, 0x00] { State.reset with y := ⟨0xFF, 0, 0, 0⟩, c := true }) (fun t => (t.y.r0, czn t)) =
      some (0, (false, false, false, false)) := by decide

/-- Section 2.1: `SUB D0, D1` of $7FFF and $FFFF. -/
theorem test_sub_borrow_and_overflow :
    see (runAt 0x100 [0x50, 0x01] (ds 0x7FFF 0xFFFF false)) (fun t => (t.d.r0, czn t)) =
      some (0x8000, (false, false, true, true)) := by decide

/-- Section 2.1: `SBC D0, D1` of 5 and 5 with a borrow pending. -/
theorem test_sbc_borrow :
    see (runAt 0x100 [0x58, 0x01] (ds 5 5 false)) (fun t => (t.d.r0, czn t)) =
      some (0xFFFF, (false, false, true, false)) := by decide

/-- Section 2.1: `CMP D0, D1` of $8000 and $7FFF writes no register. -/
theorem test_cmp_signed_less :
    see (runAt 0x100 [0x80, 0x01] (ds 0x8000 0x7FFF false)) (fun t => (t.d.r0, czn t)) =
      some (0x8000, (true, false, false, true)) := by decide

/-- Section 2.1: `ADD X0, #$0200` carries nothing into Y0. -/
theorem test_add_imm16_on_x :
    see (runAt 0x100 [0x46, 0x80, 0x02, 0x00] (at' .i0 0x05FF00 State.reset)) (fun t => (t.xy .i0, t.c, t.pc)) =
      some (0x050100, true, 0x104) := by decide

/-- Section 2.1: `ADD D0, [XY1]` at an odd address is refused. -/
theorem test_add_mem_odd_refused :
    refusal (runAt 0x100 [0x42, 0x01] (at' .i1 0x200401 State.reset)) = some .misaligned := by decide

/-- Section 2.1: `INC XY0, #1` and `DEC XY0, #31` wrap in 24 bits. -/
theorem test_inc_dec_wrap :
    see (runAt 0x100 [0x10, 0x01] (at' .i0 0xFFFFFF State.reset)) (fun t => t.xy .i0) = some 0 ∧
      see (runAt 0x100 [0x12, 0x1F] (at' .i0 0x0F State.reset)) (fun t => t.xy .i0) = some 0xFFFFF0 := by decide

/-- Section 2.2: `AND D0, #$1F` clears C and keeps V. -/
theorem test_and_keeps_v :
    see (runAt 0x100 [0x64, 0x1F] { ds 0xFFFF 0 true with v := true }) (fun t => (t.d.r0, czn t)) =
      some (0x1F, (false, false, false, true)) := by decide

/-- Section 2.2: `NOT D0, D1`. -/
theorem test_not_reg :
    see (runAt 0x100 [0x78, 0x01] (ds 0 0xFF true)) (fun t => (t.d.r0, t.d.r1, czn t)) =
      some (0xFF00, 0xFF, (false, false, true, false)) := by decide

/-- Section 2.3: `ASR4`, `MULB`, `RECIP` and `ROR` of D0, with C = 1 before and after the last. -/
theorem test_lookup_values :
    see (runAt 0x100 [0x08, 0x10] (ds 0x8001 0 false)) (fun t => t.d.r0) = some 0xF800 ∧
      see (runAt 0x100 [0x0C, 0x10] (ds 0x1234 0 false)) (fun t => t.d.r0) = some 0x03A8 ∧
      see (runAt 0x100 [0x0E, 0x10] (ds 0x0003 0 false)) (fun t => t.d.r0) = some 0x5555 ∧
      see (runAt 0x100 [0x08, 0x30] (ds 0x0003 0 true)) (fun t => (t.d.r0, t.c)) = some (0x8001, true) := by decide

/-- Section 2.3: `LOOKUP D1, #$22` with D1 = $8000 reads the word at $23_0000. -/
theorem test_lookup_custom :
    see (runAt 0x100 [0x0A, 0x41] (holding 0x230000 [0xCA, 0xFE] (ds 0 0x8000 false))) (fun t => t.d.r1) =
      some 0xCAFE := by decide

/-- Section 2.4: `LEA XY0, XY1+D2` extends the index with zeros and wraps in 24 bits. -/
theorem test_lea_index :
    see (runAt 0x100 [0x1A, 0x82] (at' .i1 0xFFFF00 { State.reset with d := ⟨0, 0, 0xFFFF, 0⟩ })) (fun t => t.xy .i0) =
      some 0x00FEFF := by decide

/-- Section 2.5: the memory before every row. -/
def loads : State := at' .i0 0x200400 (holding 0x200400 [0x12, 0x34, 0xAB, 0xCD] State.reset)

/-- Section 2.5: `LOADD D1, [XY0+D2]` with XY0 = $1F_0403 and D2 = $FFFF. -/
theorem test_loadd_index :
    see (runAt 0x100 [0xA2, 0x22] (at' .i0 0x1F0403 { loads with d := ⟨0, 0, 0xFFFF, 0⟩ })) (fun t => t.d.r1) =
      some 0xABCD := by decide

/-- Section 2.5: `LOADB D0, [XY0+#1]` and `LOADY Y1, [XY0+#2]` read big-endian bytes. -/
theorem test_load_bytes :
    see (runAt 0x100 [0xAE, 0x01] loads) (fun t => t.d.r0) = some 0x34 ∧
      see (runAt 0x100 [0xBE, 0x22] loads) (fun t => t.y.r1) = some 0xCD := by decide

/-- Section 2.5: `LOADD D0, [label]` counts from the following instruction. -/
theorem test_loadd_pc :
    see (runAt 0x100 [0xA4, 0x00, 0x00, 0x10] (holding 0x114 [0x5A, 0x5A] State.reset)) (fun t => t.d.r0) =
      some 0x5A5A := by decide

/-- Section 2.5: `LOADXY XY1, [XY0]` ignores the high byte of the bank word. -/
theorem test_loadxy :
    see (runAt 0x100 [0xC4, 0x20] (at' .i0 0x200400 (holding 0x200400 [0xFF, 0x12, 0xAB, 0x34] State.reset)))
      (fun t => t.xy .i1) = some 0x12AB34 := by decide

/-- Section 2.5: `STOREB D0, [XY0]` writes the high byte of the word; `STOREPB D0, Y0, [#$0401]` the low byte. -/
theorem test_store_bytes :
    see (runAt 0x100 [0xD0, 0x00] { loads with d := ⟨0xBEEF, 0, 0, 0⟩ }) (fun t => wordAt t 0 0x200400) = some 0xEF34 ∧
      see (runAt 0x100 [0xEE, 0x10, 0x04, 0x01] { loads with d := ⟨0x12AA, 0, 0, 0⟩ })
        (fun t => wordAt t 0 0x200400) = some 0x12AA := by decide

/-- Section 2.5: `STOREXY XY0, [XY2]`. -/
theorem test_storexy :
    see (runAt 0x100 [0xED, 0x00] (at' .i0 0x12AB34 (at' .i2 0x200400 State.reset)))
      (fun t => (wordAt t 0 0x200400, wordAt t 0 0x200402)) = some (0x0012, 0xAB34) := by decide

/-- Section 2.5: `MOVE D0, SR` with only IRQ5 asserted and C = N = 1, IE = 0. -/
theorem test_move_from_sr :
    see (runAt 0x100 [0x2A, 0x0D] { State.reset with c := true, n := true, irq := [0x20] }) (fun t => t.d.r0) =
      some 0x0025 := by decide

/-- Section 2.5: `MOVE D0, PCH` at $12_FFFE reads the bank of the following instruction; `MOVE PC, D0` stays in the bank. -/
theorem test_move_pc :
    see (runAt 0x12FFFE [0x2A, 0x0E] State.reset) (fun t => t.d.r0) = some 0x13 ∧
      see (runAt 0x010100 [0x29, 0xE0] (ds 0x4000 0 false)) (fun t => t.pc) = some 0x014000 := by decide

/-- Section 2.5: `SWAP D1, Y0`. -/
theorem test_swap :
    see (runAt 0x100 [0x2C, 0x28] { ds 0 0x1234 false with y := ⟨0xAB, 0, 0, 0⟩ }) (fun t => (t.d.r1, t.y.r0)) =
      some (0x00AB, 0x34) := by decide

/-- Section 2.6: `SGT D1` with N = V = 1 and `SLE X0, #$1234` with a false condition. -/
theorem test_scc :
    see (runAt 0x100 [0x20, 0x25, 0, 0] { State.reset with n := true, v := true }) (fun t => t.d.r1) = some 0xFFFF ∧
      see (runAt 0x100 [0x20, 0x87, 0x12, 0x34] State.reset) (fun t => t.x.r0) = some 0x1234 := by decide

/-- Section 2.7: `BLE.S` +31 with N ≠ V ends at an odd `pc`; `BCC.L` -$8000 at $00_0000 wraps. -/
theorem test_branches :
    see (runAt 0x100 [0x88, 0xFF] { State.reset with n := true }) (fun t => t.pc) = some 0x121 ∧
      see (runAt 0 [0x8A, 0x60, 0x80, 0x00] State.reset) (fun t => t.pc) = some 0xFF8004 := by decide

/-- Section 2.7: `JMP16 $4000` at $05_FFFC takes the bank of the following instruction; `JMPT XY0, D1` adds the byte index. -/
theorem test_jumps :
    see (runAt 0x05FFFC [0x92, 0x00, 0x40, 0x00] State.reset) (fun t => t.pc) = some 0x064000 ∧
      see (runAt 0x030100 [0x94, 0x01] (at' .i0 0x200400 (holding 0x200402 [0x02, 0x00] (ds 0 2 false))))
        (fun t => t.pc) = some 0x030200 := by decide

/-- Section 2.7: `CALLR` -$10 with XY3 = $21_0000 borrows into Y3. -/
theorem test_callr :
    see (runAt 0x010000 [0x9C, 0x00, 0xFF, 0xF0] (at' .i3 0x210000 State.reset))
      (fun t => (wordAt t 0 0x20FFFE, wordAt t 0 0x20FFFC, t.xy .i3, t.pc)) =
        some (0x0004, 0x0001, 0x20FFFC, 0x00FFF4) := by decide

/-- Section 2.7: `RET #4` ignores the high byte of the bank word. -/
theorem test_ret :
    see (runAt 0x100 [0x9E, 0x04] (at' .i3 0x20EFFA (holding 0x20EFFA [0xAB, 0x01, 0x00, 0x06] State.reset)))
      (fun t => (t.pc, t.xy .i3)) = some (0x010006, 0x20F002) := by decide

/-- Section 2.8: `PUSH SR` with C = V = 1 and only IRQ0 asserted. -/
theorem test_push_sr :
    see (runAt 0x100 [0x31, 0xA3] (at' .i3 0x20EFFE { State.reset with c := true, v := true, irq := [0x01] }))
      (fun t => (wordAt t 0 0x20EFFC, t.xy .i3)) = some (0x0079, 0x20EFFC) := by decide

/-- Section 2.8: `PUSH D` stores D0 highest; `POP D` reads D3 lowest. -/
theorem test_push_pop_group :
    see (runAt 0x100 [0x32, 0x03] (at' .i3 0x20EFFE { State.reset with d := ⟨1, 2, 3, 4⟩ }))
        (fun t => (wordAt t 0 0x20EFFC, wordAt t 0 0x20EFF6, t.xy .i3)) = some (1, 4, 0x20EFF6) ∧
      see (runAt 0x100 [0x3A, 0x03] (at' .i3 0x20EFF6 (holding 0x20EFF6 [0, 4, 0, 3, 0, 2, 0, 1] State.reset)))
        (fun t => (t.d, t.xy .i3)) = some (⟨1, 2, 3, 4⟩, 0x20EFFE) := by decide

/-- Section 2.8: `PUSH XY0` and `POP XY1`. -/
theorem test_push_pop_pair :
    see (runAt 0x100 [0x34, 0x03] (at' .i0 0x12AB34 (at' .i3 0x20EFFE State.reset)))
        (fun t => (wordAt t 0 0x20EFFC, wordAt t 0 0x20EFFA, t.xy .i3)) = some (0xAB34, 0x0012, 0x20EFFA) ∧
      see (runAt 0x100 [0x3C, 0x23] (at' .i3 0x20EFFA (holding 0x20EFFA [0x00, 0x12, 0xAB, 0x34] State.reset)))
        (fun t => (t.xy .i1, t.xy .i3)) = some (0x12AB34, 0x20EFFE) := by decide

/-- Section 2.8: `PUSH X3` and a push at an odd pointer are refused. -/
theorem test_push_refused :
    refusal (runAt 0x100 [0x30, 0xE3] (at' .i3 0x20EFFE State.reset)) = some .selfStack ∧
      refusal (runAt 0x100 [0x30, 0x03] (at' .i3 0x20EFFF State.reset)) = some .misaligned := by decide

/-- Section 2.9: the vector of the interrupt rows. -/
def vectored : State := at' .i3 0x20EFFE (holding 0x200000 [0x00, 0x01, 0x00, 0x3E] State.reset)

/-- Section 2.9: an interrupt accepted at a boundary. -/
theorem test_interrupt_entry :
    see (step { vectored with pc := 0x010034, ie := true, irq := [0x20] })
        (fun t => (wordAt t 0 0x20EFFC, wordAt t 0 0x20EFFA, wordAt t 0 0x20EFF8)) = some (0x0034, 0x0001, 0x00A0) ∧
      see (step { vectored with pc := 0x010034, ie := true, irq := [0x20] }) (fun t => (t.xy .i3, t.ie, t.pc, t.irq)) =
        some (0x20EFF8, false, 0x01003E, []) := by decide

/-- Section 2.9: RTI. -/
theorem test_rti :
    see (runAt 0x01003E [0xFC, 0x00]
        (at' .i3 0x20EFF8 (holding 0x20EFF8 [0x00, 0xA5, 0x00, 0x01, 0x00, 0x34] State.reset)))
      (fun t => (czn t, t.ie, t.pc, t.xy .i3)) = some ((true, false, true, false), true, 0x010034, 0x20EFFE) := by decide

/-- Section 2.9: INT in the instruction stream. -/
theorem test_int :
    see (runAt 0x010000 [0xFE, 0x00] { vectored with ie := true, c := true })
      (fun t => (wordAt t 0 0x20EFFC, wordAt t 0 0x20EFF8, t.ie, t.pc)) = some (0x0002, 0x00F1, false, 0x01003E) := by
  decide

/-- Section 2.9: `HALT #$FF`, after which nothing happens, with IE = 1 and a line asserted. -/
theorem test_halt :
    see (runAt 0x100 [0x02, 0xFF] State.reset) (fun t => (t.halted, t.haltCode, t.pc)) = some (true, 0xFF, 0x102) ∧
      see (step { State.reset with halted := true, ie := true, irq := [0x80] }) (fun t => (t.pc, t.irq)) =
        some (0, [0x80]) := by decide

/-- R296: an RTI that pops an odd low word is refused. -/
theorem test_rti_odd_refused :
    refusal (runAt 0x01003E [0xFC, 0x00]
      (at' .i3 0x20EFF8 (holding 0x20EFF8 [0x00, 0x80, 0x00, 0x01, 0x00, 0x35] State.reset))) = some .oddPc := by decide

/-- The reset state of a configuration with a row in front of the default map. -/
def withRow (r : Region) : State := State.ofReset { Config.default with memMap := r :: Config.defaultMap }

/-- R52: Appendix A's terminal: `STOREB D0, [XY0]` at $E0_0000 is an output event where `MEM_MAP` makes that address a device,
and is refused in the default map. -/
theorem test_terminal :
    see (runAt 0x100 [0xD0, 0x00] (at' .i0 0xE00000
        { withRow ⟨0xE00000, 0xE00001, .none, .none, .device⟩ with d := ⟨0x48, 0, 0, 0⟩ })) (fun t => t.out) =
        some [.byte 0xE00000 0x48] ∧
      refusal (runAt 0x100 [0xD0, 0x00] (at' .i0 0xE00000 State.reset)) = some .unmapped := by decide

/-- R52, a kind for each address: the terminal at $E0_0000 with no kind at $E0_0001 takes a byte, refuses a word, whose second byte
has no kind (R54), and refuses a byte at $E0_0001. -/
theorem test_terminal_of_one_byte :
    see (runAt 0x100 [0xD0, 0x00] (at' .i0 0xE00000
        { withRow ⟨0xE00000, 0xE00000, .none, .none, .device⟩ with d := ⟨0x48, 0, 0, 0⟩ })) (fun t => t.out) =
        some [.byte 0xE00000 0x48] ∧
      refusal (runAt 0x100 [0xC8, 0x00] (at' .i0 0xE00000 (withRow ⟨0xE00000, 0xE00000, .none, .none, .device⟩))) =
        some .unmapped ∧
      refusal (runAt 0x100 [0xD0, 0x00] (at' .i0 0xE00001 (withRow ⟨0xE00000, 0xE00000, .none, .none, .device⟩))) =
        some .unmapped := by decide

/-- R52, R54: a word store of which the lower byte is a device's and the upper one is RAM's: one event and one byte of RAM. -/
theorem test_word_over_two_kinds :
    see (writeWord 0x200400 0x1234 (withRow ⟨0x200400, 0x200400, .ram, .ram, .device⟩))
        (fun t => (t.out, t.mem)) = some ([.byte 0x200400 0x12], [(0x200401, 0x34)]) := by decide

/-- R52, a kind for each kind of access: where loads are of ROM and stores are in RAM, a load gives the image and not what was
stored. -/
theorem test_rom_for_loads_ram_for_stores :
    see (Res.bind (writeByte 0x300000 0x55 (holding 0x300000 [0xAA] (withRow ⟨0x300000, 0x3FFFFF, .rom, .rom, .ram⟩)))
        fun t => Res.bind (readByte 0x300000 t) fun r => .next { r.2 with haltCode := r.1 })
      (fun t => (t.haltCode, t.mem, t.rom)) = some (0xAA, [(0x300000, 0x55)], [(0x300000, 0xAA)]) := by decide

/-- A machine that refuses the read of a flag left undefined, right after `INC XY0, #1` left all four so. -/
def trashedState : State := (State.ofReset { Config.default with trashedFlags := .refuseRead }).trashFlags

/-- `TRASHED_FLAGS` refusing: ADC, BEQ.S, `MOVE D0, SR` and an interrupt entry read such a flag; ADD does not. -/
theorem test_trashed_flags_refused :
    refusal (runAt 0x100 [0x48, 0x01] trashedState) = some .trashedFlag ∧
      refusal (runAt 0x100 [0x88, 0x00] trashedState) = some .trashedFlag ∧
      refusal (runAt 0x100 [0x2A, 0x0D] trashedState) = some .trashedFlag ∧
      refusal (step (at' .i3 0x20EFFE { trashedState with ie := true, irq := [1] })) = some .trashedFlag ∧
      see (runAt 0x100 [0x40, 0x01] trashedState) (fun t => (t.d.r0, t.trashed)) = some (0, Flags.none) := by decide

/-- `TRASHED_FLAGS`: AND writes C, Z and N, after which BNE.S can be taken and V is still left undefined; in the default
configuration ADC after `INC XY0` runs. -/
theorem test_trashed_flags_written :
    see (runAt 0x100 [0x64, 0x1F] trashedState) (fun t => t.trashed) = some ⟨false, false, false, true⟩ ∧
      refusal (Res.bind (runAt 0x100 [0x64, 0x1F] trashedState) (exec (.bltS 4))) = some .trashedFlag ∧
      see (Res.bind (runAt 0x100 [0x64, 0x1F] trashedState) (exec (.bneS 4))) (fun t => t.pc) = some 0x104 ∧
      (see (runAt 0x100 [0x48, 0x01] State.reset.trashFlags) (fun t => t.pc)) = some 0x102 := by decide

/-- Other values of the parameters: a little-endian machine that ignores bit 0 of a word address and counts from the
instruction's own address. -/
def otherConfig : Config :=
  { Config.default with byteOrder := .little, misaligned := .ignoreBit0, pcRelBase := .thisPc }

/-- `BYTE_ORDER` little, `MISALIGNED` ignoring bit 0: `ADD D0, [XY1]` at the odd address reads the word below it. -/
theorem test_other_order_and_alignment :
    see (runAt 0x100 [0x42, 0x01] (at' .i1 0x200401 (holding 0x200400 [0x34, 0x12] (State.ofReset otherConfig))))
      (fun t => (t.d.r0, t.pc)) = some (0x1234, 0x102) := by decide

/-- `PC_REL_BASE` the instruction's own address: `BRA.S` +4 at $00_0100. -/
theorem test_other_pc_base :
    see (runAt 0x100 [0x8C, 0x04] (State.ofReset otherConfig)) (fun t => t.pc) = some 0x104 := by decide

/-- `VECTOR_BASE` in ROM and `HALT_WAKE` by an interrupt: a halted processor enters the handler of that vector. -/
theorem test_other_vector_and_wake :
    see (step { at' .i3 0x20EFFE (holding 0x10 [0x00, 0x01, 0x00, 0x3E] (State.ofReset
        { Config.default with vectorBase := 0x10, haltWake := .interrupt })) with
          halted := true, ie := true, irq := [0x01] }) (fun t => (t.pc, t.halted, t.ie)) =
      some (0x01003E, false, false) := by decide

/-- `OPERAND_LAYOUT` with bits 0 and 4 exchanged and `REG_CODES` with codes 0 and 1 exchanged: the word of
`LOADI D1, #1` by the table is `LOADI D0, #16` there. -/
theorem test_other_encoding :
    see (runAt 0x100 [0xC0, 0x21] (State.ofReset { Config.default with
        operandLayout := [4, 1, 2, 3, 0, 5, 6, 7, 8]
        regCodes := [1, 0, 2, 3, 4, 5, 6, 7, 8, 9, 10, 11, 12, 13, 14, 15] })) (fun t => (t.d.r0, t.d.r1)) =
      some (16, 0) := by decide

/-- The instruction that the host places is the one that the first step after reset runs. -/
theorem test_with_fetch_word :
    see (step (State.reset.withFetchWord 16 0xC014)) (fun t => (t.d.r0, t.pc)) = some (20, 2) ∧
      see (step (State.reset.withFetchWord 32 0x1234C220)) (fun t => (t.d.r1, t.pc)) = some (0x1234, 4) := by decide

/-! ### Witnesses: states and operands that meet the hypotheses of the statements -/

/-- A stack pair whose four words below are the lowest of RAM, IE set and a line asserted. -/
def lowStack : State := at' .i3 0x200008 { State.reset with ie := true, irq := [0x01] }

/-- A stack pair past the end of RAM: the words below it are the highest of RAM. -/
def highStack : State := at' .i3 0x800000 State.reset

/-- XY0 at the last word of RAM, XY1 at the last of the device, XY2 at the first of RAM. -/
def edges : State := at' .i0 0x7FFFFE (at' .i1 0xFFFFFE (at' .i2 0x200000 State.reset))

/-- NOP in the last word of RAM. -/
def nopLast : State := { holding 0x7FFFFE [0x00, 0x00] State.reset with pc := 0x7FFFFE }

/-- Witness of DecodeOfEncode: the pages beside the named ones. -/
theorem test_witness_DecodeOfEncode :
    (Instr.lookup 1 .i0).wellFormed = true ∧ (Instr.lookup 16 .i3).wellFormed = true ∧
      (Instr.lookup 127 .i3).wellFormed = true := by decide

/-- Witness of DecodeOnlyEncodings: an instruction and a byte after it. -/
theorem test_witness_DecodeOnlyEncodings : decode [0x9E, 0x1F, 0xAA] = .ok (.ret 31, [0xAA]) := by decide

/-- Witness of ReservedModesRejected: a word for every clause. -/
theorem test_witness_ReservedModesRejected :
    fOp 0xF7FF = 0x1E ∧ (fOp 0x0400 = 0 ∧ 2 ≤ (fMode 0x0400).toNat) ∧ (fOp 0x1600 = 2 ∧ 2 ≤ (fMode 0x1600).toNat) ∧
      (fOp 0x2200 = 4 ∧ 1 ≤ (fMode 0x2200).toNat) ∧ (fOp 0x7E00 = 0x0F ∧ fMode 0x7E00 = 3) := by decide

/-- Witness of StepRunsDecoded and of the last clause of DintRule: the fetch of NOP in the last word of RAM. -/
theorem test_witness_StepRunsDecoded :
    nopLast.halted = false ∧ nopLast.ie = false ∧ fetch nopLast = .next ([0x00, 0x00], nopLast) ∧
      decode (canonBytes nopLast.cfg [0x00, 0x00]) = .ok (.nop, []) :=
  ⟨rfl, rfl, rfl, rfl⟩

/-- The other premise of StepRunsDecoded, StepRunsEncoded and StepRefusals: IE set and no line asserted. -/
theorem test_witness_no_line : { nopLast with ie := true }.irqNow = 0 ∧ { nopLast with irq := [0, 0xFF] }.irqNow = 0 := by
  decide

/-- Witness of StepRunsEncoded: NOP in the last word of RAM, a three-word instruction at the reset address, and the same in
the other byte order. -/
theorem test_witness_StepRunsEncoded :
    (nopLast.halted = false ∧ nopLast.ie = false ∧ nopLast.pc.toNat % 2 = 0 ∧ Instr.nop.wellFormed = true ∧
        CodeAt nopLast nopLast.pc (encode .nop)) ∧
      CodeAt (State.reset.placed (encode (.jmp24 0x123456))) 0 (encode (.jmp24 0x123456)) ∧
      CodeAt ((State.ofReset otherConfig).placed (encode (.jmp24 0x123456))) 0 (encode (.jmp24 0x123456)) := by
  unfold CodeAt; decide

/-- Witness of StepRefusals: an odd `pc`, an address without a kind, and the spare opcode. -/
theorem test_witness_StepRefusals :
    (State.reset.halted = false ∧ State.reset.ie = false ∧ State.reset.cfg.misaligned = .refuse) ∧
      { State.reset with pc := 0xFFFFFF }.pc.toNat % 2 = 1 ∧
      (Aligned { State.reset with pc := 0x800000 } 0x800000 ∧
        { State.reset with pc := 0x800000 }.kind .fetch (wordBase 0x800000) = .none) ∧
      fetch (holding 0 [0xF0, 0x00] State.reset) = .next ([0xF0, 0x00], holding 0 [0xF0, 0x00] State.reset) ∧
      decode (canonBytes Config.default [0xF0, 0x00]) = .error .spareOpcode :=
  ⟨⟨rfl, rfl, rfl⟩, rfl, ⟨.inl rfl, rfl⟩, rfl, rfl⟩

/-- Witness of InterruptTaken, and of IntEnters, whose premises are among these: the frame over the vector, at both ends of RAM,
the vector readable, and a frame of which the second word is refused. -/
theorem test_witness_InterruptTaken :
    (lowStack.halted = false ∧ lowStack.ie = true ∧ lowStack.irqNow ≠ 0 ∧ lowStack.cfg.intEntry.inStream = true) ∧
      (WordWritable lowStack (lowStack.xy .i3 - 2) ∧ WordWritable lowStack (lowStack.xy .i3 - 4) ∧
        WordWritable lowStack (lowStack.xy .i3 - 6)) ∧
      (WordWritable highStack (highStack.xy .i3 - 2) ∧ WordWritable highStack (highStack.xy .i3 - 4) ∧
        WordWritable highStack (highStack.xy .i3 - 6)) ∧
      (WordReadable lowStack lowStack.cfg.vectorBase ∧ WordReadable lowStack (lowStack.cfg.vectorBase + 2)) ∧
      firstStop [writeStop (at' .i3 0x200002 lowStack) 0x200000, writeStop (at' .i3 0x200002 lowStack) 0x1FFFFE] =
        some .romStore := by
  unfold WordWritable ByteWritable WordReadable Aligned; decide

/-- Witness of the premises on flags of every statement about an instruction that reads some: flags that can be read in the default
configuration though left undefined, flags that can be read because written, and flags that cannot be read. -/
theorem test_witness_FlagsReadable :
    FlagsReadable State.reset.trashFlags ⟨true, true, true, true⟩ ∧ FlagsReadable lowStack ⟨true, true, true, true⟩ ∧
      ¬ FlagsReadable trashedState ⟨true, true, true, true⟩ ∧
      FlagsReadable (trashedState.setLogicFlags 0) (condFlags (some .eq)) ∧
      FlagsReadable (trashedState.setLogicFlags 0) (AluOp.reads .adc) ∧
      ¬ FlagsReadable (trashedState.setLogicFlags 0) (condFlags (some .le)) ∧
      ¬ FlagsReadable trashedState (AluOp.reads .sbc) ∧ ¬ FlagsReadable trashedState (moveReads .sr) ∧
      ¬ FlagsReadable trashedState (PushSrc.reads (.reg .sr)) ∧ FlagsReadable trashedState (moveReads .pch) := by
  unfold FlagsReadable
  refine ⟨?_, ?_, ?_, ?_, ?_, ?_, ?_, ?_, ?_, ?_⟩ <;> decide

/-- Witness of the other configurations of InterruptTaken, HaltedIsFinal and IntEnters. -/
theorem test_witness_configurations :
    (State.ofReset { Config.default with haltWake := .interrupt }).cfg.haltWake = .interrupt ∧
      (∀ j < 3, { State.reset with irq := [0xFF] }.ie = false ∨ { State.reset with irq := [0xFF] }.irq.getD j 0 = 0) ∧
      (State.ofReset { Config.default with intEntry := ⟨true, true, false⟩ }).cfg.intEntry.inStream = false := by decide

/-- Witness of HaltedIsFinal. -/
theorem test_witness_HaltedIsFinal :
    { State.reset with halted := true }.halted = true ∧ State.reset.cfg.haltWake = .never := ⟨rfl, rfl⟩

/-- Witness of AccessesByKind and of MemoryMap: both ends of every range, words of which one byte has another kind than the other,
an odd address that is refused, and one that is not. -/
theorem test_witness_AccessesByKind :
    (State.reset.kind .load 0 = .rom ∧ State.reset.kind .store 0x1FFFFE = .rom ∧ State.reset.kind .load 0x200000 = .ram ∧
        State.reset.kind .store 0x7FFFFE = .ram ∧ State.reset.kind .load 0x800000 = .none ∧
        State.reset.kind .store 0xFEFFFE = .none ∧ State.reset.kind .load 0xFF0000 = .device ∧
        State.reset.kind .store 0xFFFFFE = .device) ∧
      ((withRow ⟨0xE00000, 0xE00000, .none, .none, .device⟩).kind .store 0xE00000 = .device ∧
        (withRow ⟨0xE00000, 0xE00000, .none, .none, .device⟩).kind .store 0xE00001 = .none) ∧
      ((withRow ⟨0x200401, 0x200401, .ram, .rom, .device⟩).kind .load 0x200400 = .ram ∧
        (withRow ⟨0x200401, 0x200401, .ram, .rom, .device⟩).kind .load 0x200401 = .rom) ∧
      ¬ Aligned State.reset 0xFFFFFF ∧ Aligned (State.ofReset otherConfig) 0xFFFFFF ∧
      (0xFFFFFE : Addr).toNat = (0xFFFFFF : Addr).toNat / 2 * 2 := by
  unfold Aligned; decide

/-- Witness of WordStoreReadBack: the last word of RAM, and another byte of RAM and of ROM. -/
theorem test_witness_WordStoreReadBack :
    (Aligned State.reset 0x7FFFFE ∧ InRam State.reset 0x7FFFFE ∧ (0x7FFFFE : Addr).toNat = (0x7FFFFE : Addr).toNat / 2 * 2) ∧
      State.reset.kind .load 0x7FFFFD = .ram ∧ State.reset.kind .load 0x1FFFFF = .rom := by
  unfold Aligned InRam; decide

/-- Witness of ResetValues. -/
theorem test_witness_ResetValues : State.reset.cfg = Config.default := rfl

/-- Witness of StepKeepsInv: cells at both ends of ROM and in RAM, and a step. -/
theorem test_witness_StepKeepsInv :
    MemoryInv { nopLast with rom := [(0, 1), (0x1FFFFF, 2)] } ∧
      ∃ t, step { nopLast with rom := [(0, 1), (0x1FFFFF, 2)] } = .next t := by
  have hm : ∀ c ∈ nopLast.mem, nopLast.kind .load (BitVec.ofNat 24 c.1) = .ram := by decide
  have hr : ∀ c ∈ ([(0, 1), (0x1FFFFF, 2)] : Memory), nopLast.kind .load (BitVec.ofNat 24 c.1) = .rom := by decide
  exact ⟨⟨⟨by decide, fun c hc => ⟨.load, hm c hc⟩⟩, by decide, fun c hc => ⟨.load, hr c hc⟩⟩, _, rfl⟩

/-- Witness of StepStoresOnlyInRam: a step, and an address that is not in RAM. -/
theorem test_witness_StepStoresOnlyInRam : (∃ t, step nopLast = .next t) ∧ nopLast.kind .store 0xFF0000 ≠ .ram :=
  ⟨⟨_, rfl⟩, by decide⟩

/-- Witness of ControlWriters: an instruction that is no HALT and writes no IE, and one that does the one or the other. -/
theorem test_witness_ControlWriters :
    (∃ t, exec .eint edges = .next t) ∧ isHalt .eint = false ∧ (∃ t, exec (.halt 7) edges = .next t) ∧
      writesIE (.halt 7) = false :=
  ⟨⟨_, rfl⟩, rfl, ⟨_, rfl⟩, rfl⟩

/-- Witness of FlagWriters: a load, a MOVE, a SWAP and a PUSH that complete. -/
theorem test_witness_FlagWriters :
    ((∃ t, exec (.loaddInd .i0 .i0) edges = .next t) ∧ writesFlags (.loaddInd .i0 .i0) = false) ∧
      ((∃ t, exec (.moveD .pcl .i0) edges = .next t) ∧ writesFlags (.moveD .pcl .i0) = false) ∧
      ((∃ t, exec (.swapD .i0 (.x .i0)) edges = .next t) ∧ writesFlags (.swapD .i0 (.x .i0)) = false) ∧
      ((∃ t, exec (.pushReg .sr .i3) lowStack = .next t) ∧ writesFlags (.pushReg .sr .i3) = false) :=
  ⟨⟨⟨_, rfl⟩, rfl⟩, ⟨⟨_, rfl⟩, rfl⟩, ⟨⟨_, rfl⟩, rfl⟩, ⟨_, rfl⟩, rfl⟩

/-- Witness of AddAndAdc, SubAndSbc, CompareConditions and LogicOps: every form of the second operand, the word in the last
word of RAM and in the last of the device; and an operand at an odd address, and one at an address without a kind. -/
theorem test_witness_operands :
    ((Src.reg (.y .i0)).ok edges ∧ (Src.mem .i0).ok edges ∧ (Src.mem .i1).ok edges ∧ (Src.imm5 31).ok edges ∧
        (Src.imm16 0xFFFF).ok edges) ∧
      (Src.mem .i0).stop (at' .i0 0x200401 State.reset) = some .misaligned ∧
      (Src.mem .i0).stop (at' .i0 0x800000 State.reset) = some .unmapped := by
  unfold Src.ok WordReadable Aligned; decide

/-- Witness of the other premise of LogicOps. -/
theorem test_witness_LogicOps :
    (AluOp.xor = .and ∧ xor = and) ∨ (AluOp.xor = .or ∧ xor = or) ∨ (AluOp.xor = .xor ∧ xor = xor) :=
  .inr (.inr ⟨rfl, rfl⟩)

/-- Witness of NotForms: every form of the operand, and one that is refused. -/
theorem test_witness_NotForms :
    ((NotSrc.reg (.x .i0)).ok edges ∧ (NotSrc.mem .i1).ok edges ∧ NotSrc.self.ok edges) ∧
      (NotSrc.mem .i0).stop (at' .i0 0xFEFFFF State.reset) = some .misaligned := by
  unfold NotSrc.ok WordReadable Aligned; decide

/-- Witness of LookupCustom: the first word of RAM, the last of the device, and an entry without a kind. -/
theorem test_witness_LookupCustom :
    ((0x200000 : Addr).toNat = (0 + 2 * (0x10 : BitVec 7).toNat * 65536 + ((ds 0 0 false).readG (.d .i0)).toNat * 2) % 2 ^ 24 ∧
        WordReadable (ds 0 0 false) 0x200000) ∧
      ((0xFFFFFE : Addr).toNat =
          (0 + 2 * (0x7F : BitVec 7).toNat * 65536 + ((ds 0xFFFF 0 false).readG (.d .i0)).toNat * 2) % 2 ^ 24 ∧
        WordReadable (ds 0xFFFF 0 false) 0xFFFFFE) ∧
      ((0x800000 : Addr).toNat = (0 + 2 * (0x40 : BitVec 7).toNat * 65536 + ((ds 0 0 false).readG (.d .i0)).toNat * 2) % 2 ^ 24 ∧
        readStop (ds 0 0 false) 0x800000 = some .unmapped) := by
  unfold WordReadable Aligned; decide

/-- Witness of the clauses of LookupRotatesAndProducts: 0, 1, 2 and $FFFF in D0. -/
theorem test_witness_LookupRotatesAndProducts :
    ((ds 0 0 false).readG (.d .i0)).toNat = 0 ∧ ((ds 1 0 false).readG (.d .i0)).toNat = 1 ∧
      2 ≤ ((ds 2 0 false).readG (.d .i0)).toNat ∧ 2 ≤ ((ds 0xFFFF 0 false).readG (.d .i0)).toNat := by decide

/-- Witness of ConditionalSet, ShortBranches and LongBranches: every condition true in one state and false in another. -/
theorem test_witness_conditions :
    (holds { State.reset with z := true } (some .eq) ∧ holds { State.reset with c := true } (some .cs) ∧
        holds { State.reset with n := true } (some .lt) ∧ holds { State.reset with v := true } (some .le) ∧
        holds State.reset (some .ne) ∧ holds State.reset (some .cc) ∧ holds State.reset (some .gt) ∧
        holds State.reset (some .ge) ∧ holds State.reset none) ∧
      ¬ holds State.reset (some .eq) ∧ ¬ holds State.reset (some .cs) ∧ ¬ holds State.reset (some .lt) ∧
      ¬ holds State.reset (some .le) ∧ ¬ holds { State.reset with z := true } (some .ne) ∧
      ¬ holds { State.reset with c := true } (some .cc) ∧ ¬ holds { State.reset with z := true } (some .gt) ∧
      ¬ holds { State.reset with n := true } (some .ge) := by
  unfold holds; decide

/-- Witness of Jumps: the table word in the last word of RAM, and at an odd address. -/
theorem test_witness_Jumps :
    WordReadable edges (edges.eaIdx .i0 .i0) ∧
      readStop (at' .i0 0x200401 State.reset) ((at' .i0 0x200401 State.reset).eaIdx .i0 .i0) = some .misaligned := by
  unfold WordReadable Aligned; decide

/-- Witness of Calls: the frame at the lowest and at the highest words of RAM, and a frame of which the second word is in
ROM. -/
theorem test_witness_Calls :
    (WordWritable (at' .i3 0x200004 State.reset) 0x200002 ∧ WordWritable (at' .i3 0x200004 State.reset) 0x200000) ∧
      (WordWritable highStack (highStack.xy .i3 - 2) ∧ WordWritable highStack (highStack.xy .i3 - 4)) ∧
      firstStop [writeStop (at' .i3 0x200002 State.reset) ((at' .i3 0x200002 State.reset).xy .i3 - 2),
        writeStop (at' .i3 0x200002 State.reset) ((at' .i3 0x200002 State.reset).xy .i3 - 4)] = some .romStore := by
  unfold WordWritable ByteWritable Aligned; decide

/-- Witness of Return: the frame in the last two words of RAM, and in those of ROM, and a frame of which the second word has no
kind. -/
theorem test_witness_Return :
    (WordReadable (at' .i3 0x7FFFFC State.reset) 0x7FFFFC ∧ WordReadable (at' .i3 0x7FFFFC State.reset) 0x7FFFFE) ∧
      (WordReadable (at' .i3 0x1FFFFC State.reset) 0x1FFFFC ∧ WordReadable (at' .i3 0x1FFFFC State.reset) 0x1FFFFE) ∧
      firstStop [readStop edges (edges.xy .i0), readStop edges (edges.xy .i0 + 2)] = some .unmapped := by
  unfold WordReadable Aligned; decide

/-- Witness of CallThenReturn: the frame at both ends of RAM. -/
theorem test_witness_CallThenReturn :
    (Aligned (at' .i3 0x200004 State.reset) 0x200004 ∧ InRam (at' .i3 0x200004 State.reset) 0x200002 ∧
        InRam (at' .i3 0x200004 State.reset) 0x200000) ∧
      Aligned highStack (highStack.xy .i3) ∧ InRam highStack (highStack.xy .i3 - 2) ∧
      InRam highStack (highStack.xy .i3 - 4) := by
  unfold Aligned InRam; decide

/-- Witness of WordLoads: the last word of RAM, of ROM and of the device, by a pair and by the paged form; an odd address, and
one without a kind. -/
theorem test_witness_WordLoads :
    (WordReadable edges (Ea.addr edges (.ind .i0)) ∧ WordReadable edges (Ea.addr edges (.off .i1 0)) ∧
        WordReadable edges (Ea.addr edges (.idx .i0 .i3)) ∧ WordReadable edges (Ea.addr edges (.pc 0x7FFA)) ∧
        WordReadable edges (edges.eaPaged .i0 0xFFFE)) ∧
      readStop edges (Ea.addr edges (.off .i0 1)) = some .misaligned ∧
      readStop edges (Ea.addr edges (.off .i0 2)) = some .unmapped := by
  unfold WordReadable Aligned; decide

/-- Witness of ByteLoads: the last byte of RAM, of the device and of ROM, and an address without a kind. -/
theorem test_witness_ByteLoads :
    (ByteReadable edges (Ea.addr edges (.off .i0 1)) ∧ ByteReadable edges (Ea.addr edges (.off .i1 1)) ∧
        ByteReadable State.reset (Ea.addr State.reset (.pc 0x7FFF)) ∧ ByteReadable edges (edges.eaPaged .i0 0xFFFF)) ∧
      byteReadStop edges (Ea.addr edges (.off .i0 2)) = some .unmapped := by
  unfold ByteReadable; decide

/-- Witness of LoadPair and of PopGroups for a pair: two words at both ends of RAM, and a pair whose second word has no kind. -/
theorem test_witness_LoadPair :
    (WordReadable edges (edges.xy .i2) ∧ WordReadable edges (edges.xy .i2 + 2)) ∧
      (WordReadable (at' .i2 0x7FFFFC State.reset) 0x7FFFFC ∧ WordReadable (at' .i2 0x7FFFFC State.reset) 0x7FFFFE) ∧
      firstStop [readStop edges (edges.xy .i0), readStop edges (edges.xy .i0 + 2)] = some .unmapped := by
  unfold WordReadable Aligned; decide

/-- Witness of WordStores and StoreImmediate: the last word of RAM, its first, and the last of the device; an odd address, ROM,
and an address without a kind. -/
theorem test_witness_WordStores :
    (WordWritable edges (Ea.addr edges (.ind .i0)) ∧ WordWritable edges (Ea.addr edges (.off .i2 0)) ∧
        WordWritable edges (edges.xy .i1) ∧ WordWritable edges (edges.eaPaged .i0 0xFFFE)) ∧
      writeStop edges (Ea.addr edges (.off .i0 1)) = some .misaligned ∧
      writeStop edges (Ea.addr edges (.pc 0x7FFA)) = some .romStore ∧
      writeStop edges (Ea.addr edges (.off .i0 2)) = some .unmapped := by
  unfold WordWritable ByteWritable Aligned; decide

/-- Witness of ByteStores: the last byte of RAM, its first, and the last of the device; ROM, and an address without a kind. -/
theorem test_witness_ByteStores :
    (ByteWritable edges (Ea.addr edges (.off .i0 1)) ∧ ByteWritable edges (Ea.addr edges (.ind .i2)) ∧
        ByteWritable edges (Ea.addr edges (.off .i1 1)) ∧ ByteWritable edges (edges.eaPaged .i0 0xFFFF)) ∧
      byteWriteStop edges (Ea.addr edges (.pc 0x7FFB)) = some .romStore ∧
      byteWriteStop edges (Ea.addr edges (.off .i0 2)) = some .unmapped := by
  unfold ByteWritable; decide

/-- Witness of StorePair: two words at both ends of RAM, and a pair whose second word has no kind. -/
theorem test_witness_StorePair :
    (WordWritable edges (edges.xy .i2) ∧ WordWritable edges (edges.xy .i2 + 2)) ∧
      (WordWritable (at' .i2 0x7FFFFC State.reset) 0x7FFFFC ∧ WordWritable (at' .i2 0x7FFFFC State.reset) 0x7FFFFE) ∧
      firstStop [writeStop edges (edges.xy .i0), writeStop edges (edges.xy .i0 + 2)] = some .unmapped := by
  unfold WordWritable ByteWritable Aligned; decide

/-- Witness of LevelOfLines: no line, the highest line with another, and the lowest alone. -/
theorem test_witness_LevelOfLines :
    (0 : Byte) = 0 ∧ ((0x81 : Byte).getLsbD 7 = true ∧ ∀ j, 7 < j → (0x81 : Byte).getLsbD j = false) ∧
      (0x01 : Byte).getLsbD 0 = true ∧ ∀ j, 0 < j → (0x01 : Byte).getLsbD j = false := by
  refine ⟨rfl, ⟨rfl, fun j h => BitVec.getLsbD_of_ge _ _ h⟩, rfl, fun j h => ?_⟩
  by_cases h8 : 8 ≤ j
  · exact BitVec.getLsbD_of_ge _ _ h8
  · interval_cases j <;> rfl

/-- Witness of PushWord: every form of the operand, at both ends of RAM, and an odd pointer. -/
theorem test_witness_PushWord :
    ((PushSrc.reg (.gpr (.x .i0))).ok .i3 ∧ (PushSrc.reg .sr).ok .i3 ∧ (PushSrc.imm5 31).ok .i3 ∧
        (PushSrc.imm16 0xFFFF).ok .i3) ∧
      WordWritable highStack (highStack.xy .i3 - 2) ∧ WordWritable (at' .i3 0x200002 State.reset) 0x200000 ∧
      writeStop (at' .i3 0x200003 State.reset) ((at' .i3 0x200003 State.reset).xy .i3 - 2) = some .misaligned := by
  unfold PushSrc.ok WordWritable ByteWritable Aligned; decide

/-- Witness of PushGroups: four words at both ends of RAM, a pair that is not the stack pair, and a group of which the last word
is in ROM. -/
theorem test_witness_PushGroups :
    (WordWritable lowStack (lowStack.xy .i3 - 2) ∧ WordWritable lowStack (lowStack.xy .i3 - 4) ∧
        WordWritable lowStack (lowStack.xy .i3 - 6) ∧ WordWritable lowStack (lowStack.xy .i3 - 8)) ∧
      (WordWritable highStack (highStack.xy .i3 - 2) ∧ WordWritable highStack (highStack.xy .i3 - 4) ∧
        WordWritable highStack (highStack.xy .i3 - 6) ∧ WordWritable highStack (highStack.xy .i3 - 8)) ∧
      Idx.i2 ≠ .i3 ∧
      firstStop [writeStop State.reset 0x200004, writeStop State.reset 0x200002, writeStop State.reset 0x200000,
        writeStop State.reset 0x1FFFFE] = some .romStore := by
  unfold WordWritable ByteWritable Aligned; decide

/-- Witness of PopWord: the last word of RAM, a register that is no half of the stack pair, and an odd pointer. -/
theorem test_witness_PopWord :
    (WordReadable edges (edges.xy .i0) ∧ halfOf (.gpr (.x .i1)) .i0 = false) ∧
      readStop (at' .i0 0x200401 State.reset) ((at' .i0 0x200401 State.reset).xy .i0) = some .misaligned := by
  unfold WordReadable Aligned; decide

/-- Witness of PopGroups: the last four words of RAM, a pair that is not the stack pair, and a group of which the last word has
no kind. -/
theorem test_witness_PopGroups :
    (WordReadable (at' .i3 0x7FFFF8 State.reset) 0x7FFFF8 ∧ WordReadable (at' .i3 0x7FFFF8 State.reset) 0x7FFFFA ∧
        WordReadable (at' .i3 0x7FFFF8 State.reset) 0x7FFFFC ∧ WordReadable (at' .i3 0x7FFFF8 State.reset) 0x7FFFFE) ∧
      Idx.i0 ≠ .i3 ∧
      firstStop [readStop State.reset 0x7FFFFA, readStop State.reset 0x7FFFFC, readStop State.reset 0x7FFFFE,
        readStop State.reset 0x800000] = some .unmapped := by
  unfold WordReadable Aligned; decide

/-- Witness of SelfStackRefused: the two halves of the stack pair. -/
theorem test_witness_SelfStackRefused :
    (StackReg.gpr (.x .i3) = .gpr (.x .i3) ∨ StackReg.gpr (.x .i3) = .gpr (.y .i3)) ∧
      (StackReg.gpr (.y .i3) = .gpr (.x .i3) ∨ StackReg.gpr (.y .i3) = .gpr (.y .i3)) := by decide

/-- Witness of PushPopGroupRoundTrip: the four words at both ends of RAM. -/
theorem test_witness_PushPopGroupRoundTrip :
    (Aligned lowStack (lowStack.xy .i3) ∧ InRam lowStack (lowStack.xy .i3 - 2) ∧ InRam lowStack (lowStack.xy .i3 - 4) ∧
        InRam lowStack (lowStack.xy .i3 - 6) ∧ InRam lowStack (lowStack.xy .i3 - 8)) ∧
      Aligned highStack (highStack.xy .i3) ∧ InRam highStack (highStack.xy .i3 - 2) ∧
      InRam highStack (highStack.xy .i3 - 4) ∧ InRam highStack (highStack.xy .i3 - 6) ∧
      InRam highStack (highStack.xy .i3 - 8) := by
  unfold Aligned InRam; decide

/-- Witness of the last clause of NopRule: the least and the greatest operand field. -/
theorem test_witness_NopRule :
    (fOp 0x0001 = 0 ∧ fMode 0x0001 = 0 ∧ fOperand 0x0001 ≠ 0) ∧ fOp 0x01FF = 0 ∧ fMode 0x01FF = 0 ∧ fOperand 0x01FF ≠ 0 := by
  decide

/-- Witness of the last clause of DintRule: NOP is fetched with IE = 0 and every line asserted. -/
theorem test_witness_DintRule :
    { nopLast with irq := [0xFF] }.ie = false ∧ { nopLast with irq := [0xFF] }.halted = false ∧
      fetch { nopLast with irq := [0xFF] } = .next ([0x00, 0x00], { nopLast with irq := [0xFF] }) ∧
      decode (canonBytes nopLast.cfg [0x00, 0x00]) = .ok (.nop, []) :=
  ⟨rfl, rfl, rfl, rfl⟩

/-- Witness of ReturnFromInterrupt: an even popped low word in the last three words of RAM, an odd one there, the last three
words of the device, and a frame of which the third word has no kind. -/
theorem test_witness_ReturnFromInterrupt :
    (WordReadable (at' .i3 0x7FFFFA State.reset) 0x7FFFFA ∧ WordReadable (at' .i3 0x7FFFFA State.reset) 0x7FFFFC ∧
        WordReadable (at' .i3 0x7FFFFA State.reset) 0x7FFFFE) ∧
      (wordAt (holding 0x7FFFFE [0x12, 0x34] State.reset) 0 0x7FFFFE).getLsbD 0 = false ∧
      (wordAt (holding 0x7FFFFE [0x12, 0x35] State.reset) 0 0x7FFFFE).getLsbD 0 = true ∧
      State.reset.cfg.misaligned = .refuse ∧
      (WordReadable (at' .i3 0xFFFFFA State.reset) 0xFFFFFA ∧ WordReadable (at' .i3 0xFFFFFA State.reset) 0xFFFFFC ∧
        WordReadable (at' .i3 0xFFFFFA State.reset) 0xFFFFFE) ∧
      firstStop [readStop State.reset 0x7FFFFC, readStop State.reset 0x7FFFFE, readStop State.reset 0x800000] =
        some .unmapped := by
  unfold WordReadable Aligned; decide

/-- Witness of InterruptThenReturn: the frame over the vector, and in the highest words of RAM. -/
theorem test_witness_InterruptThenReturn :
    (Aligned State.reset State.reset.pc ∧ State.reset.cfg.intEntry.restoreIe = true ∧
        WordReadable State.reset State.reset.cfg.vectorBase ∧ WordReadable State.reset (State.reset.cfg.vectorBase + 2)) ∧
      (Aligned (at' .i3 0x200006 State.reset) 0x200006 ∧ InRam (at' .i3 0x200006 State.reset) 0x200004 ∧
        InRam (at' .i3 0x200006 State.reset) 0x200002 ∧ InRam (at' .i3 0x200006 State.reset) 0x200000) ∧
      Aligned highStack (highStack.xy .i3) ∧ InRam highStack (highStack.xy .i3 - 2) ∧
      InRam highStack (highStack.xy .i3 - 4) ∧ InRam highStack (highStack.xy .i3 - 6) := by
  unfold WordReadable Aligned InRam; decide

end Sys2Proof.Tests
end

section
/-!
What every completed answer of an operation satisfies: one rule for each way in which the model puts operations together.
-/

namespace Sys2Proof.Machine

open Sys2Proof.Safety

/-- Every value that an operation answers satisfies `P`; a fault or a refusal promises nothing. -/
def Res.Ensures {α : Type} (P : α → Prop) (r : Res α) : Prop := ∀ a, r = .next a → P a

theorem Res.ensures_next {α : Type} {P : α → Prop} {a : α} (h : P a) : Res.Ensures P (.next a) := by
  rintro _ ⟨⟩
  exact h

theorem Res.ensures_refused {α : Type} (P : α → Prop) (e : Refusal) : Res.Ensures P (.refused e) := nofun

theorem Res.Ensures.bind {α β : Type} {P : α → Prop} {Q : β → Prop} {r : Res α} {k : α → Res β}
    (hr : Res.Ensures P r) (hk : ∀ a, P a → Res.Ensures Q (k a)) : Res.Ensures Q (Res.bind r k) := by
  intro b hb
  obtain ⟨a, ha, hb⟩ := Res.bind_eq_next.1 hb
  exact hk a (hr a ha) b hb

theorem Res.Ensures.readingFlags {α : Type} {P : α → Prop} {r : Res α} (hr : Res.Ensures P r) (need : Flags) (s : State) :
    Res.Ensures P (readingFlags need s r) :=
  fun a ha => hr a (readingFlags_eq_next.1 ha).2

/-- Where an operation is refused on some operands, the others decide. -/
theorem Res.Ensures.unlessRefused {α : Type} {P : α → Prop} {c : Prop} [Decidable c] {r : Res α} (hr : Res.Ensures P r)
    (e : Refusal) : Res.Ensures P (if c then .refused e else r) := by
  split
  · exact Res.ensures_refused P e
  · exact hr

end Sys2Proof.Machine
end

section
/-!
Which operations keep C, Z, N, V and their marks (10_state.md R44, 40_data_movement.md R120, 47_stack.md R272): the updates of
the state, then the accesses, then the endings that the instructions of a family share, then all instructions.
-/

namespace Sys2Proof.FlagFrame

open Sys2Proof.Machine Sys2Proof.Safety

/-! ### Updates of the state

An update of other fields by name (`advance`, `jump`, `setXY`, `drawn`, `pushed`) keeps the flags by definition; that of a
register is by the register's class. -/

theorem flagsKept_refl (s : State) : FlagsKept s s := ⟨⟨rfl, rfl, rfl, rfl⟩, rfl⟩

theorem flagsKept_writeG {s t : State} (g : Gpr) (w : Word) : FlagsKept s (t.writeG g w) ↔ FlagsKept s t := by
  simp [FlagsKept]

/-! ### Accesses and stacks -/

section Accesses

variable {s t : State} (h : FlagsKept s t)
include h

theorem readByte_keeps (a : Addr) : Res.Ensures (fun r => FlagsKept s r.2) (readByte a t) := by
  intro r hr
  obtain ⟨-, rfl⟩ := (readByte_eq_next a t r).1 hr
  exact h

theorem readWord_keeps (a : Addr) : Res.Ensures (fun r => FlagsKept s r.2) (readWord a t) := by
  intro r hr
  obtain ⟨-, rfl⟩ := (readWord_eq_next a t r).1 hr
  exact h

theorem read24_keeps (a : Addr) : Res.Ensures (fun r => FlagsKept s r.2) (read24 a t) := by
  intro r hr
  obtain ⟨-, rfl⟩ := (read24_eq_next a t r).1 hr
  exact h

theorem writeByte_keeps (a : Addr) (v : Byte) : Res.Ensures (FlagsKept s) (writeByte a v t) := by
  intro u hu
  obtain ⟨-, rfl⟩ := (writeByte_eq_next a v t u).1 hu
  exact h

theorem writeWord_keeps (a : Addr) (v : Word) : Res.Ensures (FlagsKept s) (writeWord a v t) := by
  intro u hu
  obtain ⟨-, rfl⟩ := (writeWord_eq_next a v t u).1 hu
  exact h

theorem write24_keeps (a v : Addr) : Res.Ensures (FlagsKept s) (write24 a v t) := by
  intro u hu
  obtain ⟨-, rfl⟩ := (write24_eq_next a v t u).1 hu
  exact h

theorem push16_keeps (p : Idx) (v : Word) : Res.Ensures (FlagsKept s) (push16 p v t) := by
  intro u hu
  obtain ⟨-, rfl⟩ := (push16_eq_next p v t u).1 hu
  exact h

theorem pop16_keeps (p : Idx) : Res.Ensures (fun r => FlagsKept s r.2) (pop16 p t) := by
  intro r hr
  obtain ⟨-, rfl⟩ := (pop16_eq_next p t r).1 hr
  exact h

theorem pushPc_keeps (ret : Addr) : Res.Ensures (FlagsKept s) (pushPc ret t) := by
  intro u hu
  obtain ⟨-, rfl⟩ := (pushPc_eq_next ret t u).1 hu
  exact h

theorem popPc_keeps : Res.Ensures (fun r => FlagsKept s r.2) (popPc t) := by
  intro r hr
  obtain ⟨-, rfl⟩ := (popPc_eq_next t r).1 hr
  exact h

/-- The entry reads SR and writes IE alone of it (R314). -/
theorem interruptEntry_keeps (ret : Addr) : Res.Ensures (FlagsKept s) (interruptEntry ret t) := by
  intro u hu
  obtain ⟨-, -, -, rfl⟩ := (interruptEntry_eq_next ret t u).1 hu
  exact h

end Accesses

/-! ### The endings that the instructions of a family share -/

section Endings

variable (s : State)

theorem loadWordTo_keeps (g : Gpr) (ea : Addr) (len : Nat) : Res.Ensures (FlagsKept s) (loadWordTo g ea len s) :=
  (readWord_keeps (flagsKept_refl s) ea).bind fun r hr => Res.ensures_next ((flagsKept_writeG g r.1).2 hr)

theorem loadByteTo_keeps (g : Gpr) (ea : Addr) (len : Nat) : Res.Ensures (FlagsKept s) (loadByteTo g ea len s) :=
  (readByte_keeps (flagsKept_refl s) ea).bind fun _ hr => Res.ensures_next ((flagsKept_writeG g _).2 hr)

theorem storeWordAt_keeps (ea : Addr) (w : Word) (len : Nat) : Res.Ensures (FlagsKept s) (storeWordAt ea w len s) :=
  (writeWord_keeps (flagsKept_refl s) ea w).bind fun _ hu => Res.ensures_next hu

theorem storeByteAt_keeps (ea : Addr) (w : Word) (len : Nat) : Res.Ensures (FlagsKept s) (storeByteAt ea w len s) :=
  (writeByte_keeps (flagsKept_refl s) ea (loByte w)).bind fun _ hu => Res.ensures_next hu

theorem writeG_advance_keeps (g : Gpr) (w : Word) (len : Nat) : FlagsKept s ((s.writeG g w).advance len) :=
  (flagsKept_writeG g w).2 (flagsKept_refl s)

theorem swapRegs_keeps (g h : Gpr) : FlagsKept s (swapRegs g h s) :=
  (flagsKept_writeG h _).2 ((flagsKept_writeG g _).2 (flagsKept_refl s))

/-- A MOVE to any destination but SR (R120, R143). -/
theorem finishMove_keeps (len : Nat) {dst : MoveDst} (hdst : dst ≠ .sr) (w : Word) :
    FlagsKept s (s.finishMove len dst w) := by
  cases dst with
  | gpr g => exact writeG_advance_keeps s g w len
  | sr => exact absurd rfl hdst
  | pcl => exact flagsKept_refl s

theorem lookupTo_keeps (n : Idx) (w : Word) : FlagsKept s (lookupTo n w s) := writeG_advance_keeps s (.d n) w 2

theorem execLookup_keeps (page : BitVec 7) (n : Idx) : Res.Ensures (FlagsKept s) (execLookup page n s) :=
  (readWord_keeps (flagsKept_refl s) _).bind fun r hr => Res.ensures_next ((flagsKept_writeG (.d n) r.1).2 hr)

theorem setOn_keeps (c : Cond) (dst : Gpr) (v : Word) : Res.Ensures (FlagsKept s) (setOn c dst v s) :=
  (Res.ensures_next (writeG_advance_keeps s dst _ 4)).readingFlags _ s

theorem branchShort_keeps (c : Cond) (i : Imm5) : Res.Ensures (FlagsKept s) (branchShort c i s) := by
  refine Res.Ensures.readingFlags (Res.ensures_next ?_) _ s
  split
  · exact flagsKept_refl s
  · exact flagsKept_refl s

theorem branchLong_keeps (c : Cond) (off : Word) : Res.Ensures (FlagsKept s) (branchLong c off s) := by
  refine Res.Ensures.readingFlags (Res.ensures_next ?_) _ s
  split
  · exact flagsKept_refl s
  · exact flagsKept_refl s

theorem execJmpt_keeps (n m : Idx) : Res.Ensures (FlagsKept s) (execJmpt n m s) :=
  (readWord_keeps (flagsKept_refl s) _).bind fun _ hr => Res.ensures_next hr

theorem callTo_keeps (target : Addr) (len : Nat) : Res.Ensures (FlagsKept s) (callTo target len s) :=
  (pushPc_keeps (flagsKept_refl s) _).bind fun _ hu => Res.ensures_next hu

theorem execRet_keeps (i : Imm5) : Res.Ensures (FlagsKept s) (execRet i s) :=
  (popPc_keeps (flagsKept_refl s)).bind fun _ hr => Res.ensures_next hr

theorem execLoadxy_keeps (n m : Idx) : Res.Ensures (FlagsKept s) (execLoadxy n m s) :=
  (read24_keeps (flagsKept_refl s) _).bind fun _ hr => Res.ensures_next hr

theorem execStorexy_keeps (n m : Idx) : Res.Ensures (FlagsKept s) (execStorexy n m s) :=
  (write24_keeps (flagsKept_refl s) _ _).bind fun _ hu => Res.ensures_next hu

/-! ### PUSH and POP (R272) -/

/-- The single pushes: PUSH of an immediate, and, where its operand is admitted, of a register. -/
theorem push16_advance_keeps (p : Idx) (v : Word) (len : Nat) :
    Res.Ensures (FlagsKept s) (Res.bind (push16 p v s) fun t => .next (t.advance len)) :=
  (push16_keeps (flagsKept_refl s) p v).bind fun _ ht => Res.ensures_next ht

theorem execPushReg_keeps (r : StackReg) (p : Idx) : Res.Ensures (FlagsKept s) (execPushReg r p s) :=
  ((push16_advance_keeps s p _ 2).readingFlags _ s).unlessRefused .selfStack

theorem execPushD_keeps (p : Idx) : Res.Ensures (FlagsKept s) (execPushD p s) :=
  (push16_keeps (flagsKept_refl s) p _).bind fun _ h0 =>
    (push16_keeps h0 p _).bind fun _ h1 =>
      (push16_keeps h1 p _).bind fun _ h2 =>
        (push16_keeps h2 p _).bind fun _ h3 => Res.ensures_next h3

theorem execPushXY_keeps (n p : Idx) : Res.Ensures (FlagsKept s) (execPushXY n p s) := by
  refine Res.Ensures.unlessRefused ?_ .selfStack
  exact (push16_keeps (flagsKept_refl s) p _).bind fun _ ht =>
    (push16_keeps ht p _).bind fun _ hu => Res.ensures_next hu

/-- POP of a general register: of all single pops, that of SR alone writes a flag (R272, R281). -/
theorem execPopReg_gpr_keeps (g : Gpr) (p : Idx) : Res.Ensures (FlagsKept s) (execPopReg (.gpr g) p s) := by
  refine Res.Ensures.unlessRefused ?_ .selfStack
  exact (pop16_keeps (flagsKept_refl s) p).bind fun r hr => Res.ensures_next ((flagsKept_writeG g r.1).2 hr)

theorem execPopD_keeps (p : Idx) : Res.Ensures (FlagsKept s) (execPopD p s) :=
  (pop16_keeps (flagsKept_refl s) p).bind fun _ h3 =>
    (pop16_keeps h3 p).bind fun _ h2 =>
      (pop16_keeps h2 p).bind fun _ h1 =>
        (pop16_keeps h1 p).bind fun _ h0 => Res.ensures_next h0

theorem execPopXY_keeps (n p : Idx) : Res.Ensures (FlagsKept s) (execPopXY n p s) := by
  refine Res.Ensures.unlessRefused ?_ .selfStack
  exact (pop16_keeps (flagsKept_refl s) p).bind fun _ hhi =>
    (pop16_keeps hhi p).bind fun _ hlo => Res.ensures_next hlo

theorem execInt_keeps : Res.Ensures (FlagsKept s) (execInt s) := by
  unfold execInt
  split
  · exact interruptEntry_keeps (flagsKept_refl s) _
  · exact Res.ensures_refused _ _

end Endings

/-! ### All instructions -/

theorem exec_keeps_flags (i : Instr) (s : State) (h : writesFlags i = false) : Res.Ensures (FlagsKept s) (exec i s) := by
  cases i with
  | addReg | addMem | addImm5 | addImm16 | adcReg | adcMem | adcImm5 | adcImm16 | subReg | subMem | subImm5 | subImm16
  | sbcReg | sbcMem | sbcImm5 | sbcImm16 | andReg | andMem | andImm5 | andImm16 | orReg | orMem | orImm5 | orImm16
  | xorReg | xorMem | xorImm5 | xorImm16 | notReg | notMem | notSelf | cmpReg | cmpMem | cmpImm5 | cmpImm16
  | incXY | decXY | leaCopy | leaIdx | leaPc | leaOff | rti => cases h
  | nop | halt | dint | eint | braS | braL | jmp24 | jmp16 | jmpxy => exact Res.ensures_next (flagsKept_refl s)
  | shl4 | shr4 | asr4 | asr8 | mulb | recip | shl | shr | asr | swapb | high | low =>
    exact Res.ensures_next (lookupTo_keeps s _ _)
  | rol | ror => exact (Res.ensures_next (lookupTo_keeps s _ _)).readingFlags _ s
  | lookup page n => exact execLookup_keeps s page n
  | seq | sne | scs | scc | slt | sgt | sge | sle => exact setOn_keeps s _ _ _
  | beqS | bneS | bcsS | bccS | bltS | bgtS | bgeS | bleS => exact branchShort_keeps s _ _
  | beqL | bneL | bcsL | bccL | bltL | bgtL | bgeL | bleL => exact branchLong_keeps s _ _
  | jmpt n m => exact execJmpt_keeps s n m
  | call24 | call16 | callr => exact callTo_keeps s _ _
  | ret i => exact execRet_keeps s i
  | loaddInd | loaddIdx | loaddPc | loaddOff | loadxInd | loadxIdx | loadxPc | loadxOff | loadyInd | loadyIdx | loadyPc
  | loadyOff | loadp => exact loadWordTo_keeps s _ _ _
  | loadbInd | loadbIdx | loadbPc | loadbOff | loadpb => exact loadByteTo_keeps s _ _ _
  | loadiImm5 | loadiImm16 => exact Res.ensures_next (writeG_advance_keeps s _ _ _)
  | loadxy n m => exact execLoadxy_keeps s n m
  | storedInd | storedIdx | storedPc | storedOff | storexInd | storexIdx | storexPc | storexOff | storeyInd | storeyIdx
  | storeyPc | storeyOff | storeiImm5 | storeiImm16 | storep => exact storeWordAt_keeps s _ _ _
  | storebInd | storebIdx | storebPc | storebOff | storepb => exact storeByteAt_keeps s _ _ _
  | storexy n m => exact execStorexy_keeps s n m
  | moveD dst n =>
    have hdst : dst ≠ .sr := by rintro rfl; cases h
    exact Res.ensures_next (finishMove_keeps s 2 hdst _)
  | moveS dst src =>
    have hdst : dst ≠ .sr := by rintro rfl; cases h
    exact (Res.ensures_next (finishMove_keeps s 2 hdst _)).readingFlags _ s
  | swapD | swapXY => exact Res.ensures_next (swapRegs_keeps s _ _)
  | pushReg r p => exact execPushReg_keeps s r p
  | pushImm5 | pushi => exact push16_advance_keeps s _ _ _
  | pushD p => exact execPushD_keeps s p
  | pushXY n p => exact execPushXY_keeps s n p
  | popReg r p =>
    cases r with
    | gpr g => exact execPopReg_gpr_keeps s g p
    | sr => cases h
  | popD p => exact execPopD_keeps s p
  | popXY n p => exact execPopXY_keeps s n p
  | int => exact execInt_keeps s

/-- Settles O20: every instruction outside `writesFlags` ends in an update that keeps the flags and their marks. -/
theorem flagWriters : Obligations.FlagWriters := by
  unfold Obligations.FlagWriters
  intro i s t hexec hwrites
  exact exec_keeps_flags i s hwrites t hexec

end Sys2Proof.FlagFrame
end

section
/-!
The shifts and byte operations of LOOKUP (44_lookup.md R204 to R207, R210 to R212, R215, R217): their words, what writing a D
register leaves unchanged, and each page's function as an operation on words.
-/

namespace Sys2Proof.LookupRules

open Sys2Proof.Machine Sys2Proof.Safety Sys2Proof.FlagFrame

/-! ### The words (R90) -/

/-- The register number is the lowest field of the word, and zero in the word for D0. -/
theorem lookupWord_zero_add_bits (t : BitVec 7) (n : Idx) : lookupWord t .i0 + n.bits.setWidth 16 = lookupWord t n := by
  have hbits : n.bits.setWidth 16 = 0#14 ++ n.bits := BitVec.setWidth_eq_append (by decide)
  rw [hbits]
  exact BitVec.append_zero_add_zero_append

theorem decodeLookup_lookupWord (t : BitVec 7) (n : Idx) : decodeLookup (lookupWord t n) = .ok (lookupInstr t n) := by
  simp [decodeLookup, ifZero]

theorem decode_lookupWord (t : BitVec 7) (n : Idx) (rest : List Byte) :
    decode (wordBytes (lookupWord t n) ++ rest) = .ok (lookupInstr t n, rest) := by
  have hwords : decodeWords (lookupWord t n) 0 0 = .ok (lookupInstr t n) := by
    simp only [decodeWords, fOp_lookupWord]
    exact decodeLookup_lookupWord t n
  simp only [decode, takeWord_wordBytes, wordsOf_lookupWord, hwords]
  rfl

/-! ### The update of the state (R200) -/

section Update

variable (n : Idx) (w : Word) (s : State)

@[simp] theorem lookupTo_readG_self : (lookupTo n w s).readG (.d n) = w := by
  simp [lookupTo, State.readG_writeG]

theorem lookupTo_frame : Frame (· = .d n) s (lookupTo n w s) := by
  refine ⟨fun g hg => ?_, ?_⟩
  · simp [lookupTo, hg]
  · simp [lookupTo, ControlKept]

theorem lookupTo_noStore : NoStore s (lookupTo n w s) := by
  simp [lookupTo, NoStore]

@[simp] theorem lookupTo_pc : (lookupTo n w s).pc = s.pc + 2 := by
  simp [lookupTo, State.nextPc]

@[simp] theorem lookupTo_draws : (lookupTo n w s).draws = s.draws := by
  simp [lookupTo]

end Update

/-- `i` completes with `w` in Dn; no flag, mark, other register or byte of memory changes, and `pc` moves past one word. -/
def CompletesIn (s : State) (n : Idx) (i : Instr) (w : Word) : Prop :=
  ∃ t, exec i s = .next t ∧ t.readG (.d n) = w ∧ Frame (· = .d n) s t ∧ FlagsKept s t ∧ NoStore s t ∧
    t.pc = s.pc + 2 ∧ t.draws = s.draws

theorem completesIn_of_lookupTo {s : State} {n : Idx} {i : Instr} {w : Word} (h : exec i s = .next (lookupTo n w s)) :
    CompletesIn s n i w :=
  ⟨lookupTo n w s, h, lookupTo_readG_self n w s, lookupTo_frame n w s, lookupTo_keeps s n w, lookupTo_noStore n w s,
    lookupTo_pc n w s, lookupTo_draws n w s⟩

/-- The named page of table number `t`: `base` is its word for D0, `i` its instruction, and `f` what it writes to Dn of the
value there. -/
theorem page_decodes_and_completes (t : BitVec 7) (f : Word → Word) {s : State} {n : Idx} {base w : Word} {i : Instr}
    (hbase : base = lookupWord t .i0) (hinstr : lookupInstr t n = i)
    (hexec : exec i s = .next (lookupTo n (f (s.readG (.d n))) s)) (hfun : f (s.readG (.d n)) = w) :
    decode (wordBytes (base + n.bits.setWidth 16)) = .ok (i, []) ∧ CompletesIn s n i w := by
  subst hbase hinstr hfun
  refine ⟨?_, completesIn_of_lookupTo hexec⟩
  rw [lookupWord_zero_add_bits]
  exact decode_lookupWord t n []

/-! ### The functions of the pages as operations on words -/

/-- The upper bits of a word, sign-extended back to its width, are the word shifted right arithmetically. -/
theorem signExtend_extractLsb'_eq_sshiftRight {w k m : Nat} (v : BitVec w) (hw : k + m = w) (hm : 0 < m) :
    (v.extractLsb' k m).signExtend w = v.sshiftRight k := by
  have hmsb : (v.extractLsb' k m).msb = v.msb := by
    simp [BitVec.msb_eq_getLsbD_last, hm, show k + (m - 1) = w - 1 by omega]
  apply BitVec.eq_of_getLsbD_eq
  intro i hi
  rw [BitVec.getLsbD_signExtend, BitVec.getLsbD_sshiftRight, hmsb, BitVec.getLsbD_extractLsb']
  by_cases him : i < m
  · simp [hi, him, show k + i < w by omega]
  · simp [hi, him, show ¬ k + i < w by omega]

theorem shl4Fun_eq (v : Word) : shl4Fun v = v <<< 4 := (BitVec.shiftLeft_eq_concat_of_lt (x := v) (n := 4) (by decide)).symm

theorem shr4Fun_eq (v : Word) : shr4Fun v = v >>> 4 := (BitVec.ushiftRight_eq_extractLsb'_of_lt (by decide)).symm

theorem asr4Fun_eq (v : Word) : asr4Fun v = v.sshiftRight 4 :=
  signExtend_extractLsb'_eq_sshiftRight v rfl (by decide)

theorem asr8Fun_eq (v : Word) : asr8Fun v = v.sshiftRight 8 :=
  signExtend_extractLsb'_eq_sshiftRight v rfl (by decide)

theorem shlFun_eq (v : Word) : shlFun v = v <<< 1 := (BitVec.shiftLeft_eq_concat_of_lt (x := v) (n := 1) (by decide)).symm

theorem shrFun_eq (v : Word) : shrFun v = v >>> 1 := (BitVec.ushiftRight_eq_extractLsb'_of_lt (by decide)).symm

theorem asrFun_eq (v : Word) : asrFun v = v.sshiftRight 1 :=
  signExtend_extractLsb'_eq_sshiftRight v rfl (by decide)

theorem swapbFun_eq (v : Word) : swapbFun v = v <<< 8 ||| v >>> 8 := by
  have hleft : v <<< 8 = loByte v ++ 0#8 := BitVec.shiftLeft_eq_concat_of_lt (by decide)
  have hright : v >>> 8 = 0#8 ++ hiByte v := BitVec.ushiftRight_eq_extractLsb'_of_lt (by decide)
  rw [hleft, hright, BitVec.or_append]
  simp [swapbFun]

theorem lowFun_eq (v : Word) : lowFun v = v &&& 0x00FF := by
  apply BitVec.eq_of_toNat_eq
  have hmask : v.toNat &&& 255 = v.toNat % 256 := Nat.and_two_pow_sub_one_eq_mod v.toNat 8
  simp [lowFun, loByte, hmask]
  omega

/-- Settles O28: the word, the arm of `exec` and the function of each of these pages, by `page_decodes_and_completes`. -/
theorem lookupShifts : Obligations.LookupShifts := by
  unfold Obligations.LookupShifts
  intro s n v does
  refine ⟨?shl4, ?shr4, ?asr4, ?asr8, ?shl, ?shr, ?asr, ?swapb, ?low⟩
  case shl4 => exact page_decodes_and_completes 2 shl4Fun rfl rfl rfl (shl4Fun_eq v)
  case shr4 => exact page_decodes_and_completes 3 shr4Fun rfl rfl rfl (shr4Fun_eq v)
  case asr4 => exact page_decodes_and_completes 4 asr4Fun rfl rfl rfl (asr4Fun_eq v)
  case asr8 => exact page_decodes_and_completes 5 asr8Fun rfl rfl rfl (asr8Fun_eq v)
  case shl => exact page_decodes_and_completes 8 shlFun rfl rfl rfl (shlFun_eq v)
  case shr => exact page_decodes_and_completes 9 shrFun rfl rfl rfl (shrFun_eq v)
  case asr => exact page_decodes_and_completes 10 asrFun rfl rfl rfl (asrFun_eq v)
  case swapb => exact page_decodes_and_completes 13 swapbFun rfl rfl rfl (swapbFun_eq v)
  case low => exact page_decodes_and_completes 15 lowFun rfl rfl rfl (lowFun_eq v)

end Sys2Proof.LookupRules
end

section
/-!
NOP and DINT (48_control_interrupt.md R292, R293): the words of one-word instructions, the two effects, and the step at a boundary
where no interrupt is accepted (60_exceptions.md R313).
-/

namespace Sys2Proof.ControlRules

open Sys2Proof.Machine Sys2Proof.Safety

/-! ### Words -/

/-- An instruction of one word is decoded from that word alone (R84). -/
theorem decode_of_one_word {iw : Word} (rest : List Byte) (hwords : wordsOf iw = 1) :
    decode (wordBytes iw ++ rest) = (decodeWords iw 0 0).map fun i => (i, rest) := by
  simp only [decode, takeWord_wordBytes, hwords]

theorem wordsOf_nopRow {iw : Word} (hop : fOp iw = 0) (hmode : fMode iw = 0) : wordsOf iw = 1 := by
  simp [wordsOf, hop, hmode]

/-- The row of opcode 0 and mode 00 holds NOP and nothing else (R89). -/
theorem decodeWords_nopRow {iw : Word} (e1 e2 : Word) (hop : fOp iw = 0) (hmode : fMode iw = 0) :
    decodeWords iw e1 e2 = ifZero (fOperand iw) (.ok .nop) := by
  simp [decodeWords, decodeMisc, hop, hmode]

theorem decode_nopRow_reserved {iw : Word} (rest : List Byte) (hop : fOp iw = 0) (hmode : fMode iw = 0)
    (hfield : fOperand iw ≠ 0) : decode (wordBytes iw ++ rest) = .error .mustBeZero := by
  rw [decode_of_one_word rest (wordsOf_nopRow hop hmode), decodeWords_nopRow 0 0 hop hmode, ifZero, if_neg hfield]
  rfl

theorem encode_nop : encode .nop = [0x00, 0x00] := by decide

theorem encode_dint : encode .dint = [0xF8, 0x00] := by decide

theorem decode_encode_nop (rest : List Byte) : decode (encode .nop ++ rest) = .ok (.nop, rest) :=
  decode_encode_of_words rest rfl Laws.EncodeWords.nop (by decide) rfl

theorem decode_encode_dint (rest : List Byte) : decode (encode .dint ++ rest) = .ok (.dint, rest) :=
  decode_encode_of_words rest rfl Laws.EncodeWords.dint (by decide) rfl

/-! ### Effects -/

theorem advance_two (s : State) : s.advance 2 = { s with pc := s.pc + 2 } := rfl

theorem exec_nop (s : State) : exec .nop s = .next (s.advance 2) := rfl

theorem exec_dint (s : State) : exec .dint s = .next ({ s with ie := false }.advance 2) := rfl

/-! ### The step at a boundary without an interrupt -/

/-- IE = 0 masks every line, in the halted state too (R313). -/
theorem accepts_of_ie_false {s : State} (hie : s.ie = false) : s.accepts = false := by
  simp [State.accepts, hie]

theorem step_of_not_accepts {s : State} (haccepts : s.accepts = false) (hhalted : s.halted = false) :
    step s = endStep (runInstr s) := by
  simp [step, atBoundary, haccepts, hhalted]

theorem runInstr_of_decode {s t : State} {bs rest : List Byte} {i : Instr} (hfetch : fetch s = .next (bs, t))
    (hdecode : decode (canonBytes s.cfg bs) = .ok (i, rest)) : runInstr s = exec i t := by
  rw [runInstr, hfetch, Res.bind_next, hdecode]

/-! ### The obligations -/

/-- Settles O56: the word by the round trip of NOP's encoding, the reserved words of its row by `decode_nopRow_reserved`. -/
theorem nopRule : Obligations.NopRule := by
  unfold Obligations.NopRule
  refine ⟨?decodes, encode_nop, by decide, ?effect, ?reserved⟩
  case decodes => simpa [encode_nop] using decode_encode_nop []
  case effect =>
    intro s
    rw [exec_nop, advance_two]
  case reserved =>
    intro iw rest hop hmode hfield
    exact decode_nopRow_reserved rest hop hmode hfield

/-- Settles O57: the word by the round trip of DINT's encoding; the last clause because IE = 0 leaves the step no interrupt to
accept. -/
theorem dintRule : Obligations.DintRule := by
  unfold Obligations.DintRule
  refine ⟨encode_dint, ?decodes, by decide, ?effect, ?masked⟩
  case decodes => simpa [encode_dint] using decode_encode_dint []
  case effect =>
    intro s
    rw [exec_dint, advance_two]
  case masked =>
    intro s bs rest t i hie hhalted hfetch hdecode
    rw [step_of_not_accepts (accepts_of_ie_false hie) hhalted, runInstr_of_decode hfetch hdecode]

end Sys2Proof.ControlRules
end

section
/-!
Decoding and encoding are inverse (30_encoding.md sections 1 to 3): the forms read back from the words that the encoder writes, and
each opcode group's forms written back to the words that they were read from.
-/

namespace Sys2Proof.EncodingRules

open Sys2Proof.Machine

/-! ### From the instruction to its words and back -/

/-- The encoder writes as many words as the length rule gives to the first of them (R84). -/
theorem encodeWords_length (i : Instr) : (encodeWords i).length = wordsOf ((encodeWords i).headD 0) := by
  cases i with
  | halt n => exact Laws.EncodeWords.halt n
  | shl4 | shr4 | asr4 | asr8 | mulb | recip | shl | shr | asr | rol | ror | swapb | high | low | lookup =>
    exact Laws.words_of_lookup _ _
  | _ => exact Laws.words_of_iword _ _ _ rfl

/-- An instruction is one to three words long (R84). -/
theorem wordsOf_bounds (iw : Word) : 1 ≤ wordsOf iw ∧ wordsOf iw ≤ 3 := by
  unfold wordsOf
  split <;> decide

theorem encodeWords_length_bounds (i : Instr) : 1 ≤ (encodeWords i).length ∧ (encodeWords i).length ≤ 3 := by
  rw [encodeWords_length]
  exact wordsOf_bounds _

theorem decodeWords_lookupWord (t : BitVec 7) (n : Idx) (e1 e2 : Word) :
    decodeWords (lookupWord t n) e1 e2 = .ok (lookupInstr t n) := by
  simp only [decodeWords, fOp_lookupWord]
  exact LookupRules.decodeLookup_lookupWord t n

/-- A table number that is not named is that of the generic LOOKUP (R116). -/
theorem lookupInstr_of_not_named {t : BitVec 7} (h : namedTable t = false) (n : Idx) : lookupInstr t n = .lookup t n := by
  unfold lookupInstr
  split <;> simp_all [namedTable]

@[simp] theorem scc_slice_zero (c : Cond) : (0#2 ++ c.code).extractLsb' 3 2 = 0#2 := c.scc_slices.1
@[simp] theorem scc_slice_code (c : Cond) : (0#2 ++ c.code).extractLsb' 0 3 = c.code := c.scc_slices.2
@[simp] theorem branch_slice_zero (c : Cond) : (0#1 ++ c.code).extractLsb' 3 1 = 0#1 := c.branch_slices.1
@[simp] theorem branch_slice_code (c : Cond) : (0#1 ++ c.code).extractLsb' 0 3 = c.code := c.branch_slices.2

theorem decodeWords_sccWords (c : Cond) (dst : Gpr) (v e2 : Word) :
    decodeWords (iword 0x04 0 dst.code ((0 : BitVec 2) ++ c.code)) v e2 = .ok (sccInstr c dst v) := by
  simp [decodeWords, decodeScc, ifZero, withCode]

theorem decodeWords_bccSWords (c : Cond) (i : Imm5) (e1 e2 : Word) :
    decodeWords (iword 0x11 0 ((0 : BitVec 1) ++ c.code) i) e1 e2 = .ok (bccSInstr c i) := by
  simp [decodeWords, decodeBranch, ifZero]

theorem decodeWords_bccLWords (c : Cond) (off e2 : Word) :
    decodeWords (iword 0x11 1 ((0 : BitVec 1) ++ c.code) 0) off e2 = .ok (bccLInstr c off) := by
  simp [decodeWords, decodeBranch, ifZero]

/-- Two address words stand for the address that they were written from (R85). -/
theorem withAddr_words (a : Addr) (k : Addr → Instr) : withAddr ((bankOf a).setWidth 16) (offsetOf a) k = .ok (k a) := by
  simp [withAddr]

/-- The words of an instruction, followed by any others, are those of that instruction. -/
theorem decodeWords_encodeWords {i : Instr} (h : i.wellFormed = true) :
    decodeWords ((encodeWords i).headD 0) ((encodeWords i).getD 1 0) ((encodeWords i).getD 2 0) = .ok i := by
  cases i with
  | nop | halt => simp [encodeWords, decodeWords, decodeMisc, ifZero]
  | shl4 | shr4 | asr4 | asr8 | mulb | recip | shl | shr | asr | rol | ror | swapb | high | low =>
    exact decodeWords_lookupWord _ _ _ _
  | lookup t n =>
    have hnamed : namedTable t = false := by simpa [Instr.wellFormed] using h
    exact (decodeWords_lookupWord t n 0 0).trans (congrArg _ (lookupInstr_of_not_named hnamed n))
  | incXY | decXY => simp [encodeWords, decodeWords, decodeIncDec, ifZero]
  | leaCopy | leaIdx | leaPc | leaOff => simp [encodeWords, decodeWords, decodeLea, ifZero]
  | seq | sne | scs | scc | slt | sgt | sge | sle => exact decodeWords_sccWords _ _ _ _
  | moveD | moveS | swapD | swapXY => simp [encodeWords, decodeWords, decodeMove, ifZero, withCode]
  | pushReg | pushD | pushXY | pushImm5 => simp [encodeWords, decodeWords, decodePush, ifZero, withCode]
  | popReg | popD | popXY | pushi => simp [encodeWords, decodeWords, decodePop, ifZero, withCode]
  | addReg | addMem | addImm5 | addImm16 | adcReg | adcMem | adcImm5 | adcImm16 | subReg | subMem | subImm5 | subImm16
  | sbcReg | sbcMem | sbcImm5 | sbcImm16 | andReg | andMem | andImm5 | andImm16 | orReg | orMem | orImm5 | orImm16
  | xorReg | xorMem | xorImm5 | xorImm16 | cmpReg | cmpMem | cmpImm5 | cmpImm16 =>
    simp [encodeWords, decodeWords, decodeAlu, ifZero, withCode]
  | notReg | notMem | notSelf => simp [encodeWords, decodeWords, decodeNot, ifZero, withCode]
  | beqS | bneS | bcsS | bccS | bltS | bgtS | bgeS | bleS => exact decodeWords_bccSWords _ _ _ _
  | beqL | bneL | bcsL | bccL | bltL | bgtL | bgeL | bleL => exact decodeWords_bccLWords _ _ _
  | braS | braL => simp [encodeWords, decodeWords, decodeBranch, ifZero]
  | jmp24 | jmp16 | jmpt | jmpxy => simp [encodeWords, decodeWords, decodeJump, ifZero, withAddr_words]
  | call24 | call16 | callr | ret => simp [encodeWords, decodeWords, decodeCall, ifZero, withAddr_words]
  | loaddInd | loaddIdx | loaddPc | loaddOff | loadbInd | loadbIdx | loadbPc | loadbOff | loadxInd | loadxIdx | loadxPc
  | loadxOff | loadyInd | loadyIdx | loadyPc | loadyOff | storedInd | storedIdx | storedPc | storedOff | storebInd
  | storebIdx | storebPc | storebOff | storexInd | storexIdx | storexPc | storexOff | storeyInd | storeyIdx | storeyPc
  | storeyOff => simp [encodeWords, decodeWords, decodeFour, ifZero]
  | loadiImm5 | loadiImm16 | loadxy | loadp | loadpb => simp [encodeWords, decodeWords, decodeLoadi, ifZero, withCode]
  | storeiImm5 | storeiImm16 | storexy | storep | storepb =>
    simp [encodeWords, decodeWords, decodeStorei, ifZero, withCode]
  | dint | eint | rti | int => simp [encodeWords, decodeWords, decodeInt, ifZero]

/-- The round trip from a well-formed instruction. -/
theorem decode_encode {i : Instr} (h : i.wellFormed = true) (rest : List Byte) :
    decode (encode i ++ rest) = .ok (i, rest) :=
  decode_encode_of_words rest rfl (encodeWords_length i) (encodeWords_length_bounds i) (decodeWords_encodeWords h)

/-- Settles O1. -/
theorem decodeOfEncode : Obligations.DecodeOfEncode := by
  unfold Obligations.DecodeOfEncode
  intro i rest h
  exact decode_encode h rest

end Sys2Proof.EncodingRules
end

section
/-!
The words that decode are those that the encoder writes (30_encoding.md R104): each opcode group's forms, written back from the fields
that they were read from.
-/

namespace Sys2Proof.EncodingRules

open Sys2Proof.Machine

/-! ### Fields written back -/

/-- An instruction word is its four fields (R80, R82). -/
theorem iword_fields (iw : Word) : iword (fOp iw) (fMode iw) (fR iw) (fI iw) = iw := by
  apply BitVec.eq_of_getLsbD_eq
  intro k hk
  simp only [getLsbD_iword, fOp, fMode, fR, fI, BitVec.getLsbD_extractLsb']
  interval_cases k <;> rfl

theorem haltWord_fields {iw : Word} (hop : fOp iw = 0) (hmode : fMode iw = 1) (h8 : fBit8 iw = 0) :
    haltWord (iw.extractLsb' 0 8) = iw := by
  have hfields : haltWord (iw.extractLsb' 0 8) = fOp iw ++ fMode iw ++ fBit8 iw ++ iw.extractLsb' 0 8 := by
    rw [hop, hmode, h8]
    rfl
  rw [hfields]
  apply BitVec.eq_of_getLsbD_eq
  intro k hk
  simp only [BitVec.getLsbD_append, fOp, fMode, fBit8, BitVec.getLsbD_extractLsb']
  interval_cases k <;> rfl

theorem lookupWord_fields {iw : Word} (hop : fOp iw = 1) (hM : fM iw = 0) :
    lookupWord (lookupTable iw) (Idx.ofBits (fN iw)) = iw := by
  have hfields : lookupWord (lookupTable iw) (Idx.ofBits (fN iw)) =
      fOp iw ++ (lookupTable iw).extractLsb' 0 2 ++ (lookupTable iw).extractLsb' 2 5 ++ fM iw ++ fN iw := by
    rw [hop, hM, lookupWord, Idx.bits_ofBits]
  have htable (k : Nat) : (lookupTable iw).getLsbD k = (iw.extractLsb' 4 5 ++ fMode iw).getLsbD k := rfl
  rw [hfields]
  apply BitVec.eq_of_getLsbD_eq
  intro k hk
  simp only [BitVec.getLsbD_append, fOp, fM, fN, BitVec.getLsbD_extractLsb', htable, fMode]
  interval_cases k <;> rfl

theorem inS_of_F {low : BitVec 5} (h : low.extractLsb' 4 1 = 0) : inS (low.extractLsb' 0 4) = low := by
  revert low; decide

theorem low_of_FM {low : BitVec 5} (h : low.extractLsb' 2 3 = 0) : (Idx.ofBits (low.extractLsb' 0 2)).low = low := by
  revert low; decide

theorem low_of_M_F {low : BitVec 5} (hM : low.extractLsb' 2 2 = 0) (hF : low.extractLsb' 4 1 = 0) :
    (Idx.ofBits (low.extractLsb' 0 2)).low = low := by
  revert low; decide

theorem lowF_of_M_F {low : BitVec 5} (hM : low.extractLsb' 2 2 = 0) (hF : ¬ low.extractLsb' 4 1 = 0) :
    (Idx.ofBits (low.extractLsb' 0 2)).lowF = low := by
  revert low; decide

theorem inB_of_A {r : BitVec 4} (h : r.extractLsb' 2 2 = 0) : (Idx.ofBits (r.extractLsb' 0 2)).inB = r := by
  revert r; decide

theorem inA_of_B {r : BitVec 4} (h : r.extractLsb' 0 2 = 0) : (Idx.ofBits (r.extractLsb' 2 2)).inA = r := by
  revert r; decide

theorem pairAB_fields (r : BitVec 4) : pairAB (Idx.ofBits (r.extractLsb' 2 2)) (Idx.ofBits (r.extractLsb' 0 2)) = r := by
  revert r; decide

theorem inB_of_ofCode? {r : BitVec 4} {n : Idx} (h : Gpr.ofCode? r = some (.d n)) : n.inB = r :=
  Gpr.code_of_ofCode? h

theorem sccCode_of_zero {low : BitVec 5} (h : low.extractLsb' 3 2 = 0) :
    (0 : BitVec 2) ++ (Cond.ofCode (low.extractLsb' 0 3)).code = low := by
  revert low; decide

theorem branchCode_of_bit8 {r : BitVec 4} (h : r.extractLsb' 3 1 = 0) :
    (0 : BitVec 1) ++ (Cond.ofCode (r.extractLsb' 0 3)).code = r := by
  revert r; decide

theorem operand_eq_zero {r : BitVec 4} {low : BitVec 5} (h : r ++ low = 0) : r = 0 ∧ low = 0 := by
  revert r low; decide

/-- The address that two extension words stand for is written as those words (R85). -/
theorem addrWords_of_hiByte {e1 : Word} (h : hiByte e1 = 0) (e2 : Word) :
    (bankOf (mkAddr (loByte e1) e2)).setWidth 16 = e1 ∧ offsetOf (mkAddr (loByte e1) e2) = e2 := by
  refine ⟨?_, offsetOf_mkAddr _ _⟩
  rw [bankOf_mkAddr, BitVec.setWidth_eq_append (by decide)]
  exact (congrArg (· ++ loByte e1) h).symm.trans (hiByte_append_loByte e1)

theorem mode_cases (mode : BitVec 2) : mode = 0 ∨ mode = 1 ∨ mode = 2 ∨ mode = 3 := by
  revert mode; decide

theorem mode_of_one_le {mode : BitVec 2} (h : 1 ≤ mode.toNat) : mode = 1 ∨ mode = 2 ∨ mode = 3 := by
  revert mode; decide

theorem mode_of_two_le {mode : BitVec 2} (h : 2 ≤ mode.toNat) : mode = 2 ∨ mode = 3 := by
  revert mode; decide

/-! ### What a decoder that answers has found -/

theorem ifZero_eq_ok {w : Nat} {bits : BitVec w} {d : Except Reject Instr} {i : Instr} :
    ifZero bits d = .ok i ↔ bits = 0 ∧ d = .ok i := by
  unfold ifZero
  split
  · simp [*]
  · simp only [reduceCtorEq, false_iff, not_and]
    exact fun h => absurd h ‹_›

theorem withCode_eq_ok {α : Type} {o : Option α} {k : α → Except Reject Instr} {i : Instr} :
    withCode o k = .ok i ↔ ∃ a, o = some a ∧ k a = .ok i := by
  cases o <;> simp [withCode]

theorem withAddr_eq_ok {e1 e2 : Word} {k : Addr → Instr} {i : Instr} :
    withAddr e1 e2 k = .ok i ↔ hiByte e1 = 0 ∧ k (mkAddr (loByte e1) e2) = i := by
  unfold withAddr
  split <;> simp_all

/-! ### The opcode groups -/

/-- `i` is an instruction, and `ws` begin with its words. -/
def Encodes (i : Instr) (ws : List Word) : Prop := i.wellFormed = true ∧ encodeWords i <+: ws

theorem Encodes.append {i : Instr} {ws : List Word} (h : Encodes i ws) (vs : List Word) : Encodes i (ws ++ vs) :=
  ⟨h.1, h.2.trans (List.prefix_append ws vs)⟩

section Groups

variable {op : BitVec 5} {mode : BitVec 2} {r : BitVec 4} {low : BitVec 5} {e1 e2 : Word} {i : Instr}

theorem decodeMisc_encodes (h : decodeMisc (iword 0x00 mode r low) = .ok i) :
    Encodes i [iword 0x00 mode r low, e1, e2] := by
  rcases mode_cases mode with rfl | rfl | rfl | rfl
  · obtain ⟨hz, rfl⟩ := by simpa [decodeMisc, ifZero_eq_ok] using h
    obtain ⟨rfl, rfl⟩ := operand_eq_zero hz
    simp [Encodes, Instr.wellFormed, encodeWords]
  · replace h : ifZero (fBit8 (iword 0x00 1 r low)) (.ok (.halt ((iword 0x00 1 r low).extractLsb' 0 8))) = .ok i := by
      simpa [decodeMisc] using h
    obtain ⟨hz, h⟩ := ifZero_eq_ok.1 h
    cases h
    refine ⟨rfl, ?_⟩
    rw [encodeWords, haltWord_fields (fOp_iword _ _ _ _) (fMode_iword _ _ _ _) hz]
    exact List.prefix_append _ [e1, e2]
  · simp [decodeMisc] at h
  · simp [decodeMisc] at h

/-- Each named operation is the LOOKUP of its table number, and the generic LOOKUP is not of a named one (R116, R201). -/
theorem lookupInstr_encodes (t : BitVec 7) (n : Idx) : Encodes (lookupInstr t n) [lookupWord t n] := by
  by_cases h : namedTable t = true
  · have hrange : 2 ≤ t.toNat ∧ t.toNat ≤ 15 := by simpa [namedTable] using h
    obtain ⟨k, hk⟩ : ∃ k : Nat, t.toNat = k := ⟨_, rfl⟩
    obtain rfl : t = BitVec.ofNat 7 k := by rw [← hk, BitVec.ofNat_toNat, BitVec.setWidth_eq]
    rw [hk] at hrange
    obtain ⟨hlow, hhigh⟩ := hrange
    clear hk h
    interval_cases k <;> exact ⟨rfl, List.prefix_refl _⟩
  · rw [lookupInstr_of_not_named (by simpa using h)]
    exact ⟨by simpa [Instr.wellFormed] using h, List.prefix_refl _⟩

theorem decodeLookup_encodes (h : decodeLookup (iword 0x01 mode r low) = .ok i) :
    Encodes i [iword 0x01 mode r low, e1, e2] := by
  obtain ⟨hM, h⟩ := ifZero_eq_ok.1 h
  cases h
  have hi := lookupInstr_encodes (lookupTable (iword 0x01 mode r low)) (Idx.ofBits (fN (iword 0x01 mode r low)))
  rw [lookupWord_fields (fOp_iword _ _ _ _) hM] at hi
  exact hi.append [e1, e2]

theorem decodeIncDec_encodes (h : decodeIncDec (iword 0x02 mode r low) = .ok i) :
    Encodes i [iword 0x02 mode r low, e1, e2] := by
  rcases mode_cases mode with rfl | rfl | rfl | rfl
  · obtain ⟨hA, rfl⟩ := by simpa [decodeIncDec, ifZero_eq_ok] using h
    simp [Encodes, Instr.wellFormed, encodeWords, inB_of_A hA]
  · obtain ⟨hA, rfl⟩ := by simpa [decodeIncDec, ifZero_eq_ok] using h
    simp [Encodes, Instr.wellFormed, encodeWords, inB_of_A hA]
  · simp [decodeIncDec] at h
  · simp [decodeIncDec] at h

theorem decodeLea_encodes (h : decodeLea (iword 0x03 mode r low) e1 = .ok i) :
    Encodes i [iword 0x03 mode r low, e1, e2] := by
  rcases mode_cases mode with rfl | rfl | rfl | rfl
  · obtain ⟨hI, rfl⟩ := by simpa [decodeLea, ifZero_eq_ok] using h
    simp [Encodes, Instr.wellFormed, encodeWords, pairAB_fields, hI]
  · obtain ⟨hFM, rfl⟩ := by simpa [decodeLea, ifZero_eq_ok] using h
    simp [Encodes, Instr.wellFormed, encodeWords, pairAB_fields, low_of_FM hFM]
  · obtain ⟨hA, hI, rfl⟩ := by simpa [decodeLea, ifZero_eq_ok] using h
    simp [Encodes, Instr.wellFormed, encodeWords, inB_of_A hA, hI]
  · obtain rfl := by simpa [decodeLea] using h
    simp [Encodes, Instr.wellFormed, encodeWords, pairAB_fields]

theorem sccInstr_encodes (c : Cond) (dst : Gpr) (v : Word) : Encodes (sccInstr c dst v) (sccWords c dst v) := by
  cases c <;> exact ⟨rfl, List.prefix_refl _⟩

theorem bccSInstr_encodes (c : Cond) (k : Imm5) : Encodes (bccSInstr c k) (bccSWords c k) := by
  cases c <;> exact ⟨rfl, List.prefix_refl _⟩

theorem bccLInstr_encodes (c : Cond) (off : Word) : Encodes (bccLInstr c off) (bccLWords c off) := by
  cases c <;> exact ⟨rfl, List.prefix_refl _⟩

theorem decodeScc_encodes (h : decodeScc (iword 0x04 mode r low) e1 = .ok i) :
    Encodes i [iword 0x04 mode r low, e1, e2] := by
  rcases mode_cases mode with rfl | rfl | rfl | rfl
  · obtain ⟨hz, dst, hdst, rfl⟩ := by simpa [decodeScc, ifZero_eq_ok, withCode_eq_ok] using h
    have hi := sccInstr_encodes (Cond.ofCode (low.extractLsb' 0 3)) dst e1
    rw [sccWords, Gpr.code_of_ofCode? hdst, sccCode_of_zero hz] at hi
    exact hi.append [e2]
  · simp [decodeScc] at h
  · simp [decodeScc] at h
  · simp [decodeScc] at h

theorem decodeMove_encodes (h : decodeMove (iword 0x05 mode r low) = .ok i) :
    Encodes i [iword 0x05 mode r low, e1, e2] := by
  rcases mode_cases mode with rfl | rfl | rfl | rfl
  · obtain ⟨hFM, dst, hdst, rfl⟩ := by simpa [decodeMove, ifZero_eq_ok, withCode_eq_ok] using h
    simp [Encodes, Instr.wellFormed, encodeWords, MoveDst.code_of_ofCode? hdst, low_of_FM hFM]
  · obtain ⟨hF, dst, hdst, src, hsrc, rfl⟩ := by simpa [decodeMove, ifZero_eq_ok, withCode_eq_ok] using h
    simp [Encodes, Instr.wellFormed, encodeWords, MoveDst.code_of_ofCode? hdst, MoveSrc.code_of_ofCode? hsrc, inS_of_F hF]
  · obtain ⟨hF, g, hg, h⟩ := by simpa [decodeMove, ifZero_eq_ok, withCode_eq_ok] using h
    cases g with
    | d n =>
      obtain ⟨x, hx, rfl⟩ := by simpa [withCode_eq_ok] using h
      simp [Encodes, Instr.wellFormed, encodeWords, inB_of_ofCode? hg, XYReg.code_of_ofCode? hx, inS_of_F hF]
    | x n => simp at h
    | y n => simp at h
  · obtain ⟨hF, a, ha, b, hb, rfl⟩ := by simpa [decodeMove, ifZero_eq_ok, withCode_eq_ok] using h
    simp [Encodes, Instr.wellFormed, encodeWords, XYReg.code_of_ofCode? ha, XYReg.code_of_ofCode? hb, inS_of_F hF]

theorem decodePush_encodes (h : decodePush (iword 0x06 mode r low) = .ok i) :
    Encodes i [iword 0x06 mode r low, e1, e2] := by
  rcases mode_cases mode with rfl | rfl | rfl | rfl
  · obtain ⟨hFM, x, hx, rfl⟩ := by simpa [decodePush, ifZero_eq_ok, withCode_eq_ok] using h
    simp [Encodes, Instr.wellFormed, encodeWords, StackReg.code_of_ofCode? hx, low_of_FM hFM]
  · obtain ⟨hR, hFM, rfl⟩ := by simpa [decodePush, ifZero_eq_ok] using h
    simp [Encodes, Instr.wellFormed, encodeWords, hR, low_of_FM hFM]
  · obtain ⟨hA, hFM, rfl⟩ := by simpa [decodePush, ifZero_eq_ok] using h
    simp [Encodes, Instr.wellFormed, encodeWords, inB_of_A hA, low_of_FM hFM]
  · obtain ⟨hB, rfl⟩ := by simpa [decodePush, ifZero_eq_ok] using h
    simp [Encodes, Instr.wellFormed, encodeWords, inA_of_B hB]

theorem decodePop_encodes (h : decodePop (iword 0x07 mode r low) e1 = .ok i) :
    Encodes i [iword 0x07 mode r low, e1, e2] := by
  rcases mode_cases mode with rfl | rfl | rfl | rfl
  · obtain ⟨hFM, x, hx, rfl⟩ := by simpa [decodePop, ifZero_eq_ok, withCode_eq_ok] using h
    simp [Encodes, Instr.wellFormed, encodeWords, StackReg.code_of_ofCode? hx, low_of_FM hFM]
  · obtain ⟨hR, hFM, rfl⟩ := by simpa [decodePop, ifZero_eq_ok] using h
    simp [Encodes, Instr.wellFormed, encodeWords, hR, low_of_FM hFM]
  · obtain ⟨hA, hFM, rfl⟩ := by simpa [decodePop, ifZero_eq_ok] using h
    simp [Encodes, Instr.wellFormed, encodeWords, inB_of_A hA, low_of_FM hFM]
  · obtain ⟨hR, hFM, rfl⟩ := by simpa [decodePop, ifZero_eq_ok] using h
    simp [Encodes, Instr.wellFormed, encodeWords, hR, low_of_FM hFM]

/-- The two-operand groups, by what the encoder writes for their four forms (R97). -/
theorem decodeAlu_encodes {reg : Gpr → Gpr → Instr} {mem : Gpr → Idx → Instr} {imm5 : Gpr → Imm5 → Instr}
    {imm16 : Gpr → Word → Instr}
    (hreg : ∀ dst src, Encodes (reg dst src) [iword op 0 dst.code (inS src.code)])
    (hmem : ∀ dst n, Encodes (mem dst n) [iword op 1 dst.code n.low])
    (himm5 : ∀ dst k, Encodes (imm5 dst k) [iword op 2 dst.code k])
    (himm16 : ∀ dst v, Encodes (imm16 dst v) [iword op 3 dst.code 0, v])
    (h : decodeAlu reg mem imm5 imm16 (iword op mode r low) e1 = .ok i) : Encodes i [iword op mode r low, e1, e2] := by
  obtain ⟨dst, hdst, h⟩ := withCode_eq_ok.1 h
  obtain rfl : dst.code = r := Gpr.code_of_ofCode? (by simpa using hdst)
  rcases mode_cases mode with rfl | rfl | rfl | rfl
  · obtain ⟨hF, src, hsrc, rfl⟩ := by simpa [ifZero_eq_ok, withCode_eq_ok] using h
    have hi := hreg dst src
    rw [Gpr.code_of_ofCode? hsrc, inS_of_F hF] at hi
    exact hi.append [e1, e2]
  · obtain ⟨hFM, rfl⟩ := by simpa [ifZero_eq_ok] using h
    have hi := hmem dst (Idx.ofBits (low.extractLsb' 0 2))
    rw [low_of_FM hFM] at hi
    exact hi.append [e1, e2]
  · obtain rfl := by simpa using h
    exact (himm5 dst low).append [e1, e2]
  · obtain ⟨hI, rfl⟩ := by simpa [ifZero_eq_ok] using h
    subst hI
    exact (himm16 dst e1).append [e2]

theorem decodeNot_encodes (h : decodeNot (iword 0x0F mode r low) = .ok i) :
    Encodes i [iword 0x0F mode r low, e1, e2] := by
  rcases mode_cases mode with rfl | rfl | rfl | rfl
  · obtain ⟨hF, dst, hdst, src, hsrc, rfl⟩ := by simpa [decodeNot, ifZero_eq_ok, withCode_eq_ok] using h
    simp [Encodes, Instr.wellFormed, encodeWords, Gpr.code_of_ofCode? hdst, Gpr.code_of_ofCode? hsrc, inS_of_F hF]
  · obtain ⟨hFM, dst, hdst, rfl⟩ := by simpa [decodeNot, ifZero_eq_ok, withCode_eq_ok] using h
    simp [Encodes, Instr.wellFormed, encodeWords, Gpr.code_of_ofCode? hdst, low_of_FM hFM]
  · obtain ⟨hI, dst, hdst, rfl⟩ := by simpa [decodeNot, ifZero_eq_ok, withCode_eq_ok] using h
    simp [Encodes, Instr.wellFormed, encodeWords, Gpr.code_of_ofCode? hdst, hI]
  · simp [decodeNot] at h

theorem decodeBranch_encodes (h : decodeBranch (iword 0x11 mode r low) e1 = .ok i) :
    Encodes i [iword 0x11 mode r low, e1, e2] := by
  rcases mode_cases mode with rfl | rfl | rfl | rfl
  · obtain ⟨hz, rfl⟩ := by simpa [decodeBranch, ifZero_eq_ok] using h
    have hi := bccSInstr_encodes (Cond.ofCode (r.extractLsb' 0 3)) low
    rw [bccSWords, branchCode_of_bit8 hz] at hi
    exact hi.append [e1, e2]
  · obtain ⟨hz, hI, rfl⟩ := by simpa [decodeBranch, ifZero_eq_ok] using h
    subst hI
    have hi := bccLInstr_encodes (Cond.ofCode (r.extractLsb' 0 3)) e1
    rw [bccLWords, branchCode_of_bit8 hz] at hi
    exact hi.append [e2]
  · obtain ⟨hR, rfl⟩ := by simpa [decodeBranch, ifZero_eq_ok] using h
    simp [Encodes, Instr.wellFormed, encodeWords, hR]
  · obtain ⟨hz, rfl⟩ := by simpa [decodeBranch, ifZero_eq_ok] using h
    obtain ⟨rfl, rfl⟩ := operand_eq_zero hz
    simp [Encodes, Instr.wellFormed, encodeWords]

theorem decodeJump_encodes (h : decodeJump (iword 0x12 mode r low) e1 e2 = .ok i) :
    Encodes i [iword 0x12 mode r low, e1, e2] := by
  rcases mode_cases mode with rfl | rfl | rfl | rfl
  · obtain ⟨hz, hbank, rfl⟩ := by simpa [decodeJump, ifZero_eq_ok, withAddr_eq_ok] using h
    obtain ⟨rfl, rfl⟩ := operand_eq_zero hz
    obtain ⟨h1, h2⟩ := addrWords_of_hiByte hbank e2
    simp only [Encodes, Instr.wellFormed, encodeWords, h1, h2]
    simp
  · obtain ⟨hz, rfl⟩ := by simpa [decodeJump, ifZero_eq_ok] using h
    obtain ⟨rfl, rfl⟩ := operand_eq_zero hz
    simp [Encodes, Instr.wellFormed, encodeWords]
  · obtain ⟨hB, hFM, rfl⟩ := by simpa [decodeJump, ifZero_eq_ok] using h
    simp [Encodes, Instr.wellFormed, encodeWords, inA_of_B hB, low_of_FM hFM]
  · obtain ⟨hB, hI, rfl⟩ := by simpa [decodeJump, ifZero_eq_ok] using h
    simp [Encodes, Instr.wellFormed, encodeWords, inA_of_B hB, hI]

theorem decodeCall_encodes (h : decodeCall (iword 0x13 mode r low) e1 e2 = .ok i) :
    Encodes i [iword 0x13 mode r low, e1, e2] := by
  rcases mode_cases mode with rfl | rfl | rfl | rfl
  · obtain ⟨hz, hbank, rfl⟩ := by simpa [decodeCall, ifZero_eq_ok, withAddr_eq_ok] using h
    obtain ⟨rfl, rfl⟩ := operand_eq_zero hz
    obtain ⟨h1, h2⟩ := addrWords_of_hiByte hbank e2
    simp only [Encodes, Instr.wellFormed, encodeWords, h1, h2]
    simp
  · obtain ⟨hz, rfl⟩ := by simpa [decodeCall, ifZero_eq_ok] using h
    obtain ⟨rfl, rfl⟩ := operand_eq_zero hz
    simp [Encodes, Instr.wellFormed, encodeWords]
  · obtain ⟨hz, rfl⟩ := by simpa [decodeCall, ifZero_eq_ok] using h
    obtain ⟨rfl, rfl⟩ := operand_eq_zero hz
    simp [Encodes, Instr.wellFormed, encodeWords]
  · obtain ⟨hR, rfl⟩ := by simpa [decodeCall, ifZero_eq_ok] using h
    simp [Encodes, Instr.wellFormed, encodeWords, hR]

/-- The loads and stores of four modes, by what the encoder writes for them (R102). -/
theorem decodeFour_encodes {ind : Idx → Idx → Instr} {idx : Idx → Idx → Idx → Instr} {pc : Idx → Word → Instr}
    {off : Idx → Idx → Imm5 → Instr}
    (hind : ∀ x n, Encodes (ind x n) [iword op 0 (pairAB n x) 0])
    (hidx : ∀ x n m, Encodes (idx x n m) [iword op 1 (pairAB n x) m.low])
    (hpc : ∀ x k, Encodes (pc x k) [iword op 2 x.inB 0, k])
    (hoff : ∀ x n k, Encodes (off x n k) [iword op 3 (pairAB n x) k])
    (h : decodeFour ind idx pc off (iword op mode r low) e1 = .ok i) : Encodes i [iword op mode r low, e1, e2] := by
  rcases mode_cases mode with rfl | rfl | rfl | rfl
  · obtain ⟨hI, rfl⟩ := by simpa [decodeFour, ifZero_eq_ok] using h
    subst hI
    have hi := hind (Idx.ofBits (r.extractLsb' 0 2)) (Idx.ofBits (r.extractLsb' 2 2))
    rw [pairAB_fields] at hi
    exact hi.append [e1, e2]
  · obtain ⟨hFM, rfl⟩ := by simpa [decodeFour, ifZero_eq_ok] using h
    have hi := hidx (Idx.ofBits (r.extractLsb' 0 2)) (Idx.ofBits (r.extractLsb' 2 2)) (Idx.ofBits (low.extractLsb' 0 2))
    rw [pairAB_fields, low_of_FM hFM] at hi
    exact hi.append [e1, e2]
  · obtain ⟨hA, hI, rfl⟩ := by simpa [decodeFour, ifZero_eq_ok] using h
    subst hI
    have hi := hpc (Idx.ofBits (r.extractLsb' 0 2)) e1
    rw [inB_of_A hA] at hi
    exact hi.append [e2]
  · obtain rfl := by simpa [decodeFour] using h
    have hi := hoff (Idx.ofBits (r.extractLsb' 0 2)) (Idx.ofBits (r.extractLsb' 2 2)) low
    rw [pairAB_fields] at hi
    exact hi.append [e1, e2]

theorem decodeLoadi_encodes (h : decodeLoadi (iword 0x18 mode r low) e1 = .ok i) :
    Encodes i [iword 0x18 mode r low, e1, e2] := by
  rcases mode_cases mode with rfl | rfl | rfl | rfl
  · obtain ⟨dst, hdst, rfl⟩ := by simpa [decodeLoadi, withCode_eq_ok] using h
    simp [Encodes, Instr.wellFormed, encodeWords, Gpr.code_of_ofCode? hdst]
  · obtain ⟨hI, dst, hdst, rfl⟩ := by simpa [decodeLoadi, ifZero_eq_ok, withCode_eq_ok] using h
    simp [Encodes, Instr.wellFormed, encodeWords, Gpr.code_of_ofCode? hdst, hI]
  · obtain ⟨hI, rfl⟩ := by simpa [decodeLoadi, ifZero_eq_ok] using h
    simp [Encodes, Instr.wellFormed, encodeWords, pairAB_fields, hI]
  · obtain ⟨hM, dst, hdst, rfl⟩ := by simpa [decodeLoadi, ifZero_eq_ok, withCode_eq_ok] using h
    split
    · simp [Encodes, Instr.wellFormed, encodeWords, Gpr.code_of_ofCode? hdst, low_of_M_F hM ‹_›]
    · simp [Encodes, Instr.wellFormed, encodeWords, Gpr.code_of_ofCode? hdst, lowF_of_M_F hM ‹_›]

theorem decodeStorei_encodes (h : decodeStorei (iword 0x1D mode r low) e1 = .ok i) :
    Encodes i [iword 0x1D mode r low, e1, e2] := by
  rcases mode_cases mode with rfl | rfl | rfl | rfl
  · obtain ⟨hB, rfl⟩ := by simpa [decodeStorei, ifZero_eq_ok] using h
    simp [Encodes, Instr.wellFormed, encodeWords, inA_of_B hB]
  · obtain ⟨hB, hI, rfl⟩ := by simpa [decodeStorei, ifZero_eq_ok] using h
    simp [Encodes, Instr.wellFormed, encodeWords, inA_of_B hB, hI]
  · obtain ⟨hI, rfl⟩ := by simpa [decodeStorei, ifZero_eq_ok] using h
    simp [Encodes, Instr.wellFormed, encodeWords, pairAB_fields, hI]
  · obtain ⟨hM, src, hsrc, rfl⟩ := by simpa [decodeStorei, ifZero_eq_ok, withCode_eq_ok] using h
    split
    · simp [Encodes, Instr.wellFormed, encodeWords, Gpr.code_of_ofCode? hsrc, low_of_M_F hM ‹_›]
    · simp [Encodes, Instr.wellFormed, encodeWords, Gpr.code_of_ofCode? hsrc, lowF_of_M_F hM ‹_›]

theorem decodeInt_encodes (h : decodeInt (iword 0x1F mode r low) = .ok i) :
    Encodes i [iword 0x1F mode r low, e1, e2] := by
  obtain ⟨hz, h⟩ := ifZero_eq_ok.1 h
  obtain ⟨rfl, rfl⟩ := operand_eq_zero (by simpa using hz)
  rcases mode_cases mode with rfl | rfl | rfl | rfl
  all_goals
    obtain rfl := by simpa using h
    simp [Encodes, Instr.wellFormed, encodeWords]

end Groups

/-! ### Whole instructions -/

/-- The form of a two-operand or four-mode group is encoded as its row says: by definition of the encoder. -/
theorem encodes_of_eq {i : Instr} {ws : List Word} (hw : i.wellFormed = true) (he : encodeWords i = ws) : Encodes i ws :=
  ⟨hw, he ▸ List.prefix_refl _⟩

theorem decodeWords_encodes {iw e1 e2 : Word} {i : Instr} (h : decodeWords iw e1 e2 = .ok i) : Encodes i [iw, e1, e2] := by
  rw [← iword_fields iw] at h ⊢
  generalize fOp iw = op, fMode iw = mode, fR iw = r, fI iw = low at h ⊢
  simp only [decodeWords, fOp_iword] at h
  have hop {k : Nat} (hk : op.toNat = k) : op = BitVec.ofNat 5 k := by rw [← hk, BitVec.ofNat_toNat, BitVec.setWidth_eq]
  split at h
  case h_32 => cases h
  all_goals
    rename_i hk
    obtain rfl := hop hk
  · exact decodeMisc_encodes h
  · exact decodeLookup_encodes h
  · exact decodeIncDec_encodes h
  · exact decodeLea_encodes h
  · exact decodeScc_encodes h
  · exact decodeMove_encodes h
  · exact decodePush_encodes h
  · exact decodePop_encodes h
  iterate 7
    exact decodeAlu_encodes (fun _ _ => encodes_of_eq rfl rfl) (fun _ _ => encodes_of_eq rfl rfl)
      (fun _ _ => encodes_of_eq rfl rfl) (fun _ _ => encodes_of_eq rfl rfl) h
  · exact decodeNot_encodes h
  · exact decodeAlu_encodes (fun _ _ => encodes_of_eq rfl rfl) (fun _ _ => encodes_of_eq rfl rfl)
      (fun _ _ => encodes_of_eq rfl rfl) (fun _ _ => encodes_of_eq rfl rfl) h
  · exact decodeBranch_encodes h
  · exact decodeJump_encodes h
  · exact decodeCall_encodes h
  iterate 4
    exact decodeFour_encodes (fun _ _ => encodes_of_eq rfl rfl) (fun _ _ _ => encodes_of_eq rfl rfl)
      (fun _ _ => encodes_of_eq rfl rfl) (fun _ _ _ => encodes_of_eq rfl rfl) h
  · exact decodeLoadi_encodes h
  iterate 4
    exact decodeFour_encodes (fun _ _ => encodes_of_eq rfl rfl) (fun _ _ _ => encodes_of_eq rfl rfl)
      (fun _ _ => encodes_of_eq rfl rfl) (fun _ _ _ => encodes_of_eq rfl rfl) h
  · exact decodeStorei_encodes h
  · exact decodeInt_encodes h

/-- The encoding of `i` has the words that the length rule gives to its first word. -/
theorem Encodes.take {i : Instr} {iw e1 e2 : Word} (h : Encodes i [iw, e1, e2]) :
    encodeWords i = [iw, e1, e2].take (wordsOf iw) := by
  have hlength := encodeWords_length i
  have hbounds := encodeWords_length_bounds i
  obtain ⟨-, hprefix⟩ := h
  match hws : encodeWords i, hprefix with
  | [], _ => simp [hws] at hbounds
  | w :: ws, hprefix =>
    obtain ⟨rfl, -⟩ := List.cons_prefix_cons.1 hprefix
    rw [hws] at hlength
    rw [List.prefix_iff_eq_take.1 hprefix, hlength]
    rfl

@[simp] theorem hiByte_append (hi lo : Byte) : hiByte (hi ++ lo) = hi := by
  simpa [hiByte] using BitVec.extractLsb'_append_eq_left (a := hi) (b := lo)

@[simp] theorem loByte_append (hi lo : Byte) : loByte (hi ++ lo) = lo := by
  simpa [loByte] using BitVec.extractLsb'_append_eq_right (a := hi) (b := lo)

/-- A word is the first two bytes of those that it is taken from (R54). -/
theorem takeWord_eq_some {bs rest : List Byte} {w : Word} (h : takeWord bs = some (w, rest)) : bs = wordBytes w ++ rest := by
  match bs, h with
  | hi :: lo :: _, h =>
    obtain ⟨rfl, rfl⟩ := by simpa [takeWord] using h
    simp [wordBytes]

theorem encodes_of_map_decodeWords {iw e1 e2 : Word} {r rest : List Byte} {i : Instr}
    (h : (decodeWords iw e1 e2).map (fun i => (i, r)) = .ok (i, rest)) : Encodes i [iw, e1, e2] ∧ r = rest := by
  cases hd : decodeWords iw e1 e2 with
  | error why => simp [hd, Except.map] at h
  | ok j =>
    obtain ⟨rfl, rfl⟩ := by simpa [hd, Except.map] using h
    exact ⟨decodeWords_encodes hd, rfl⟩

/-- What decodes is a well-formed instruction's encoding (R104). -/
theorem decode_eq_ok {bs rest : List Byte} {i : Instr} (h : decode bs = .ok (i, rest)) :
    i.wellFormed = true ∧ bs = encode i ++ rest := by
  unfold decode at h
  split at h
  · cases h
  rename_i iw r0 h0
  have hbounds := wordsOf_bounds iw
  rw [takeWord_eq_some h0]
  split at h
  · rename_i hwords
    obtain ⟨hi, rfl⟩ := encodes_of_map_decodeWords h
    simp [encode, hi.1, hi.take, hwords]
  · rename_i hwords
    split at h
    · cases h
    rename_i e1 r1 h1
    obtain ⟨hi, rfl⟩ := encodes_of_map_decodeWords h
    simp [encode, hi.1, hi.take, hwords, takeWord_eq_some h1]
  · rename_i hne1 hne2
    have hwords : wordsOf iw = 3 := by
      have : wordsOf iw ≠ 1 := hne1
      have : wordsOf iw ≠ 2 := hne2
      omega
    split at h
    · cases h
    rename_i e1 r1 h1
    split at h
    · cases h
    rename_i e2 r2 h2
    obtain ⟨hi, rfl⟩ := encodes_of_map_decodeWords h
    simp [encode, hi.1, hi.take, hwords, takeWord_eq_some h1, takeWord_eq_some h2]

/-- Settles O2. -/
theorem decodeOnlyEncodings : Obligations.DecodeOnlyEncodings := by
  unfold Obligations.DecodeOnlyEncodings
  intro bs rest i h
  exact decode_eq_ok h
/-! ### Words of the spec, and words that it reserves -/

theorem decode_of_encode {bs : List Byte} {i : Instr} (h : i.wellFormed = true) (hbytes : encode i = bs) :
    decode bs = .ok (i, []) := by
  simpa [hbytes] using decode_encode h []

/-- Settles O3: each word is what the encoder writes for its instruction. -/
theorem specWordsDecode : Obligations.SpecWordsDecode := by
  unfold Obligations.SpecWordsDecode
  refine ⟨?_, ?_, ?_, ?_, ?_, ?_, ?_, ?_, ?_, ?_⟩
  all_goals exact decode_of_encode (by decide) (by decide)

theorem decode_reserved {iw : Word} {why : Reject} (rest : List Byte) (hwords : wordsOf iw = 1)
    (h : decodeWords iw 0 0 = .error why) : decode (wordBytes iw ++ rest) = .error why := by
  rw [ControlRules.decode_of_one_word rest hwords, h]
  rfl

/-- Settles O4: the length rule gives these words no extension word, and the decoder of their opcode has no such mode. -/
theorem reservedModesRejected : Obligations.ReservedModesRejected := by
  unfold Obligations.ReservedModesRejected
  intro iw rest
  refine ⟨?spare, ?twoModes, ?scc, ?not⟩
  case spare =>
    intro hop
    exact decode_reserved rest (by simp [wordsOf, hop]) (by simp [decodeWords, hop])
  case twoModes =>
    intro hop hmode
    rcases hop with hop | hop <;> rcases mode_of_two_le hmode with hm | hm
    all_goals
      exact decode_reserved rest (by simp [wordsOf, hop, hm]) (by simp [decodeWords, decodeMisc, decodeIncDec, hop, hm])
  case scc =>
    intro hop hmode
    rcases mode_of_one_le hmode with hm | hm | hm
    all_goals exact decode_reserved rest (by simp [wordsOf, hop, hm]) (by simp [decodeWords, decodeScc, hop, hm])
  case not =>
    intro hop hmode
    exact decode_reserved rest (by simp [wordsOf, hop, hmode]) (by simp [decodeWords, decodeNot, hop, hmode])

end Sys2Proof.EncodingRules
end

section
/-!
What no instruction does, whatever it does to registers, flags and `pc`: a predicate of the state that register updates, stores and
draws keep is kept by every instruction, but for the writes of IE (DINT, EINT, RTI, INT) and of the halted state (HALT). The
claims about memory and about the control state are two such predicates.
-/

namespace Sys2Proof.ExecRules

open Sys2Proof.Machine Sys2Proof.Safety

/-! ### Predicates that the parts of an instruction keep -/

/-- `t` and `u` differ in registers, flags, marks and `pc` alone, but that `u` may have drawn more free values. -/
def SameOutsideRegs (t u : State) : Prop :=
  u.mem = t.mem ∧ u.rom = t.rom ∧ u.out = t.out ∧ u.irq = t.irq ∧ u.ie = t.ie ∧ u.halted = t.halted ∧
    u.haltCode = t.haltCode ∧ u.cfg = t.cfg ∧ t.draws ≤ u.draws

/-- Updates of registers, draws and stores keep `K`. -/
structure Closed (K : State → Prop) : Prop where
  regs : ∀ {t u : State}, SameOutsideRegs t u → K t → K u
  word : ∀ {t : State} (a : Addr) (v : Word), K t → K (t.storedWord a v)
  byte : ∀ {t : State} (a : Addr) (v : Byte), K t → K (t.storedByte a v)

section Accesses

variable {K : State → Prop} (hK : Closed K) {s : State} (h : K s)
include hK h

theorem drawn_keeps (j : Nat) : K (s.drawn j) := hK.regs (by simp [SameOutsideRegs]) h

theorem advance_keeps (len : Nat) : K (s.advance len) := hK.regs (by simp [SameOutsideRegs]) h

theorem jump_keeps (a : Addr) : K (s.jump a) := hK.regs (by simp [SameOutsideRegs]) h

theorem setXY_keeps (p : Idx) (a : Addr) : K (s.setXY p a) := hK.regs (by simp [SameOutsideRegs]) h

theorem writeG_keeps (g : Gpr) (w : Word) : K (s.writeG g w) := hK.regs (by simp [SameOutsideRegs]) h

theorem setFlags_keeps (f : Flags) : K (s.setFlags f) := hK.regs (by simp [SameOutsideRegs]) h

theorem setLogicFlags_keeps (w : Word) : K (s.setLogicFlags w) := hK.regs (by simp [SameOutsideRegs]) h

theorem trashFlags_keeps : K s.trashFlags := hK.regs (by simp [SameOutsideRegs]) h

theorem writeSr_keeps (w : Word) : K (s.writeSr w) := hK.regs (by simp [SameOutsideRegs]) h

theorem writeStackReg_keeps (r : StackReg) (w : Word) : K (s.writeStackReg r w) := by
  cases r with
  | gpr g => exact writeG_keeps hK h g w
  | sr => exact writeSr_keeps hK h w

theorem dRegs_keeps (q : Quad Word) : K { s with d := q } := hK.regs (by simp [SameOutsideRegs]) h

theorem pushed_keeps (p : Idx) (v : Word) : K (s.pushed p v) := hK.word _ _ (setXY_keeps hK h p _)

theorem readByte_keeps (a : Addr) : Res.Ensures (fun r => K r.2) (readByte a s) := by
  intro r hr
  obtain ⟨-, rfl⟩ := (readByte_eq_next a s r).1 hr
  exact drawn_keeps hK h _

theorem readWord_keeps (a : Addr) : Res.Ensures (fun r => K r.2) (readWord a s) := by
  intro r hr
  obtain ⟨-, rfl⟩ := (readWord_eq_next a s r).1 hr
  exact drawn_keeps hK h _

theorem read24_keeps (a : Addr) : Res.Ensures (fun r => K r.2) (read24 a s) := by
  intro r hr
  obtain ⟨-, rfl⟩ := (read24_eq_next a s r).1 hr
  exact drawn_keeps hK h _

theorem writeByte_keeps (a : Addr) (v : Byte) : Res.Ensures K (writeByte a v s) := by
  intro t ht
  obtain ⟨-, rfl⟩ := (writeByte_eq_next a v s t).1 ht
  exact hK.byte a v h

theorem writeWord_keeps (a : Addr) (v : Word) : Res.Ensures K (writeWord a v s) := by
  intro t ht
  obtain ⟨-, rfl⟩ := (writeWord_eq_next a v s t).1 ht
  exact hK.word a v h

theorem write24_keeps (a v : Addr) : Res.Ensures K (write24 a v s) := by
  intro t ht
  obtain ⟨-, rfl⟩ := (write24_eq_next a v s t).1 ht
  exact hK.word _ _ (hK.word _ _ h)

theorem push16_keeps (p : Idx) (v : Word) : Res.Ensures K (push16 p v s) := by
  intro t ht
  obtain ⟨-, rfl⟩ := (push16_eq_next p v s t).1 ht
  exact pushed_keeps hK h p v

theorem pop16_keeps (p : Idx) : Res.Ensures (fun r => K r.2) (pop16 p s) := by
  intro r hr
  obtain ⟨-, rfl⟩ := (pop16_eq_next p s r).1 hr
  exact setXY_keeps hK (drawn_keeps hK h _) p _

theorem pushPc_keeps (ret : Addr) : Res.Ensures K (pushPc ret s) := by
  intro t ht
  obtain ⟨-, rfl⟩ := (pushPc_eq_next ret s t).1 ht
  exact pushed_keeps hK (pushed_keeps hK h _ _) _ _

theorem popPc_keeps : Res.Ensures (fun r => K r.2) (popPc s) := by
  intro r hr
  obtain ⟨-, rfl⟩ := (popPc_eq_next s r).1 hr
  exact setXY_keeps hK (drawn_keeps hK h _) _ _

/-- The entry writes IE, which `K` must allow (R314). -/
theorem interruptEntry_keeps (hie : ∀ {t : State} (b : Bool), K t → K { t with ie := b }) (ret : Addr) :
    Res.Ensures K (interruptEntry ret s) := by
  intro t ht
  obtain ⟨-, -, -, rfl⟩ := (interruptEntry_eq_next ret s t).1 ht
  exact jump_keeps hK (drawn_keeps hK
    (hie _ (pushed_keeps hK (pushed_keeps hK (pushed_keeps hK h _ _) _ _) _ _)) _) _

/-- The return writes IE, which `K` must allow (R318). -/
theorem interruptReturn_keeps (hie : ∀ {t : State} (b : Bool), K t → K { t with ie := b }) :
    Res.Ensures K (interruptReturn s) := by
  intro t ht
  obtain ⟨-, -, rfl⟩ := (interruptReturn_eq_next s t).1 ht
  exact jump_keeps hK (hie _ (writeSr_keeps hK (setXY_keeps hK (drawn_keeps hK h _) _ _) _)) _

/-! ### The endings that the instructions of a family share -/

theorem writeG_advance_keeps (g : Gpr) (w : Word) (len : Nat) : K ((s.writeG g w).advance len) :=
  advance_keeps hK (writeG_keeps hK h g w) len

theorem loadWordTo_keeps (g : Gpr) (ea : Addr) (len : Nat) : Res.Ensures K (loadWordTo g ea len s) :=
  (readWord_keeps hK h ea).bind fun r hr => Res.ensures_next (writeG_advance_keeps hK hr g r.1 len)

theorem loadByteTo_keeps (g : Gpr) (ea : Addr) (len : Nat) : Res.Ensures K (loadByteTo g ea len s) :=
  (readByte_keeps hK h ea).bind fun _ hr => Res.ensures_next (writeG_advance_keeps hK hr g _ len)

theorem storeWordAt_keeps (ea : Addr) (w : Word) (len : Nat) : Res.Ensures K (storeWordAt ea w len s) :=
  (writeWord_keeps hK h ea w).bind fun _ ht => Res.ensures_next (advance_keeps hK ht len)

theorem storeByteAt_keeps (ea : Addr) (w : Word) (len : Nat) : Res.Ensures K (storeByteAt ea w len s) :=
  (writeByte_keeps hK h ea (loByte w)).bind fun _ ht => Res.ensures_next (advance_keeps hK ht len)

theorem swapRegs_keeps (g g' : Gpr) : K (swapRegs g g' s) :=
  writeG_advance_keeps hK (writeG_keeps hK h g _) g' _ 2

theorem finishMove_keeps (len : Nat) (dst : MoveDst) (w : Word) : K (s.finishMove len dst w) := by
  cases dst with
  | gpr g => exact writeG_advance_keeps hK h g w len
  | sr => exact advance_keeps hK (writeSr_keeps hK h w) len
  | pcl => exact jump_keeps hK h _

theorem lookupTo_keeps (n : Idx) (w : Word) : K (lookupTo n w s) := writeG_advance_keeps hK h (.d n) w 2

theorem execLookup_keeps (page : BitVec 7) (n : Idx) : Res.Ensures K (execLookup page n s) :=
  (readWord_keeps hK h _).bind fun r hr => Res.ensures_next (lookupTo_keeps hK hr n r.1)

theorem aluTo_keeps (dst : Gpr) (o : AluOut) (len : Nat) : K (aluTo dst o len s) :=
  advance_keeps hK (setFlags_keeps hK (writeG_keeps hK h dst o.res) o.flags) len

theorem logicTo_keeps (dst : Gpr) (res : Word) (len : Nat) : K (logicTo dst res len s) :=
  advance_keeps hK (setLogicFlags_keeps hK (writeG_keeps hK h dst res) res) len

theorem cmpWith_keeps (dst : Gpr) (len : Nat) (b : Word) : K (cmpWith dst len b s) :=
  advance_keeps hK (setFlags_keeps hK h _) len

/-- A memory operand is read before the ending `k`. -/
theorem withMem_keeps (n : Idx) {k : Word → State → State} (hk : ∀ w {t : State}, K t → K (k w t)) :
    Res.Ensures K (withMem n s k) :=
  (readWord_keeps hK h _).bind fun r hr => Res.ensures_next (hk r.1 hr)

theorem leaTo_keeps (n : Idx) (a : Addr) (len : Nat) : K (leaTo n a len s) :=
  advance_keeps hK (trashFlags_keeps hK (setXY_keeps hK h n a)) len

theorem setOn_keeps (c : Cond) (dst : Gpr) (v : Word) : Res.Ensures K (setOn c dst v s) :=
  (Res.ensures_next (writeG_advance_keeps hK h dst _ 4)).readingFlags _ s

theorem branchShort_keeps (c : Cond) (i : Imm5) : Res.Ensures K (branchShort c i s) := by
  refine Res.Ensures.readingFlags (Res.ensures_next ?_) _ s
  split
  · exact jump_keeps hK h _
  · exact advance_keeps hK h 2

theorem branchLong_keeps (c : Cond) (off : Word) : Res.Ensures K (branchLong c off s) := by
  refine Res.Ensures.readingFlags (Res.ensures_next ?_) _ s
  split
  · exact jump_keeps hK h _
  · exact advance_keeps hK h 4

theorem execJmpt_keeps (n m : Idx) : Res.Ensures K (execJmpt n m s) :=
  (readWord_keeps hK h _).bind fun _ hr => Res.ensures_next (jump_keeps hK hr _)

theorem callTo_keeps (target : Addr) (len : Nat) : Res.Ensures K (callTo target len s) :=
  (pushPc_keeps hK h _).bind fun _ ht => Res.ensures_next (jump_keeps hK ht target)

theorem execRet_keeps (i : Imm5) : Res.Ensures K (execRet i s) :=
  (popPc_keeps hK h).bind fun r hr => Res.ensures_next (jump_keeps hK (setXY_keeps hK hr _ _) r.1)

theorem execLoadxy_keeps (n m : Idx) : Res.Ensures K (execLoadxy n m s) :=
  (read24_keeps hK h _).bind fun r hr => Res.ensures_next (advance_keeps hK (setXY_keeps hK hr n r.1) 2)

theorem execStorexy_keeps (n m : Idx) : Res.Ensures K (execStorexy n m s) :=
  (write24_keeps hK h _ _).bind fun _ ht => Res.ensures_next (advance_keeps hK ht 2)

theorem push16_advance_keeps (p : Idx) (v : Word) (len : Nat) :
    Res.Ensures K (Res.bind (push16 p v s) fun t => .next (t.advance len)) :=
  (push16_keeps hK h p v).bind fun _ ht => Res.ensures_next (advance_keeps hK ht len)

theorem execPushReg_keeps (r : StackReg) (p : Idx) : Res.Ensures K (execPushReg r p s) :=
  ((push16_advance_keeps hK h p _ 2).readingFlags _ s).unlessRefused .selfStack

theorem execPushD_keeps (p : Idx) : Res.Ensures K (execPushD p s) :=
  (push16_keeps hK h p _).bind fun _ h0 =>
    (push16_keeps hK h0 p _).bind fun _ h1 =>
      (push16_keeps hK h1 p _).bind fun _ h2 => push16_advance_keeps hK h2 p _ 2

theorem execPushXY_keeps (n p : Idx) : Res.Ensures K (execPushXY n p s) :=
  Res.Ensures.unlessRefused
    ((push16_keeps hK h p _).bind fun _ ht => push16_advance_keeps hK ht p _ 2) .selfStack

theorem execPopReg_keeps (r : StackReg) (p : Idx) : Res.Ensures K (execPopReg r p s) :=
  Res.Ensures.unlessRefused
    ((pop16_keeps hK h p).bind fun w hw => Res.ensures_next (advance_keeps hK (writeStackReg_keeps hK hw r w.1) 2))
    .selfStack

theorem execPopD_keeps (p : Idx) : Res.Ensures K (execPopD p s) :=
  (pop16_keeps hK h p).bind fun _ h3 =>
    (pop16_keeps hK h3 p).bind fun _ h2 =>
      (pop16_keeps hK h2 p).bind fun _ h1 =>
        (pop16_keeps hK h1 p).bind fun _ h0 => Res.ensures_next (advance_keeps hK (dRegs_keeps hK h0 _) 2)

theorem execPopXY_keeps (n p : Idx) : Res.Ensures K (execPopXY n p s) :=
  Res.Ensures.unlessRefused
    ((pop16_keeps hK h p).bind fun _ hhi =>
      (pop16_keeps hK hhi p).bind fun _ hlo => Res.ensures_next (advance_keeps hK (setXY_keeps hK hlo n _) 2))
    .selfStack

theorem execInt_keeps (hie : ∀ {t : State} (b : Bool), K t → K { t with ie := b }) : Res.Ensures K (execInt s) := by
  unfold execInt
  split
  · exact interruptEntry_keeps hK h hie _
  · exact Res.ensures_refused _ _

end Accesses

/-! ### All instructions -/

/-- What register updates, draws and stores keep, every instruction keeps, where it is kept by the writes of IE and of the halted
state that the instruction may make. -/
theorem exec_keeps {K : State → Prop} (hK : Closed K) (i : Instr)
    (hie : writesIE i = true → ∀ {t : State} (b : Bool), K t → K { t with ie := b })
    (hhalt : isHalt i = true → ∀ {t : State} (n : Byte), K t → K { t with halted := true, haltCode := n })
    {s : State} (h : K s) : Res.Ensures K (exec i s) := by
  cases i with
  | nop => exact Res.ensures_next (advance_keeps hK h 2)
  | halt n => exact Res.ensures_next (advance_keeps hK (hhalt rfl n h) 2)
  | dint | eint => exact Res.ensures_next (advance_keeps hK (hie rfl _ h) 2)
  | rti => exact interruptReturn_keeps hK h (hie rfl)
  | int => exact execInt_keeps hK h (hie rfl)
  | shl4 | shr4 | asr4 | asr8 | mulb | recip | shl | shr | asr | swapb | high | low =>
    exact Res.ensures_next (lookupTo_keeps hK h _ _)
  | rol | ror => exact (Res.ensures_next (lookupTo_keeps hK h _ _)).readingFlags _ s
  | lookup page n => exact execLookup_keeps hK h page n
  | incXY | decXY => exact Res.ensures_next (leaTo_keeps hK h _ _ 2)
  | leaCopy | leaIdx | leaPc | leaOff => exact Res.ensures_next (leaTo_keeps hK h _ _ _)
  | seq | sne | scs | scc | slt | sgt | sge | sle => exact setOn_keeps hK h _ _ _
  | moveD dst n => exact Res.ensures_next (finishMove_keeps hK h 2 dst _)
  | moveS dst src => exact (Res.ensures_next (finishMove_keeps hK h 2 dst _)).readingFlags _ s
  | swapD | swapXY => exact Res.ensures_next (swapRegs_keeps hK h _ _)
  | pushReg r p => exact execPushReg_keeps hK h r p
  | pushD p => exact execPushD_keeps hK h p
  | pushXY n p => exact execPushXY_keeps hK h n p
  | pushImm5 | pushi => exact push16_advance_keeps hK h _ _ _
  | popReg r p => exact execPopReg_keeps hK h r p
  | popD p => exact execPopD_keeps hK h p
  | popXY n p => exact execPopXY_keeps hK h n p
  | addReg | addImm5 | addImm16 | subReg | subImm5 | subImm16 => exact Res.ensures_next (aluTo_keeps hK h _ _ _)
  | adcReg | adcImm5 | adcImm16 | sbcReg | sbcImm5 | sbcImm16 =>
    exact (Res.ensures_next (aluTo_keeps hK h _ _ _)).readingFlags _ s
  | addMem | subMem => exact withMem_keeps hK h _ fun _ _ ht => aluTo_keeps hK ht _ _ _
  | adcMem | sbcMem => exact (withMem_keeps hK h _ fun _ _ ht => aluTo_keeps hK ht _ _ _).readingFlags _ s
  | andReg | andImm5 | andImm16 | orReg | orImm5 | orImm16 | xorReg | xorImm5 | xorImm16 | notReg | notSelf =>
    exact Res.ensures_next (logicTo_keeps hK h _ _ _)
  | andMem | orMem | xorMem | notMem => exact withMem_keeps hK h _ fun _ _ ht => logicTo_keeps hK ht _ _ _
  | cmpReg | cmpImm5 | cmpImm16 => exact Res.ensures_next (cmpWith_keeps hK h _ _ _)
  | cmpMem => exact withMem_keeps hK h _ fun _ _ ht => cmpWith_keeps hK ht _ _ _
  | beqS | bneS | bcsS | bccS | bltS | bgtS | bgeS | bleS => exact branchShort_keeps hK h _ _
  | beqL | bneL | bcsL | bccL | bltL | bgtL | bgeL | bleL => exact branchLong_keeps hK h _ _
  | braS | braL | jmp24 | jmp16 | jmpxy => exact Res.ensures_next (jump_keeps hK h _)
  | jmpt n m => exact execJmpt_keeps hK h n m
  | call24 | call16 | callr => exact callTo_keeps hK h _ _
  | ret i => exact execRet_keeps hK h i
  | loaddInd | loaddIdx | loaddPc | loaddOff | loadxInd | loadxIdx | loadxPc | loadxOff | loadyInd | loadyIdx | loadyPc
  | loadyOff | loadp => exact loadWordTo_keeps hK h _ _ _
  | loadbInd | loadbIdx | loadbPc | loadbOff | loadpb => exact loadByteTo_keeps hK h _ _ _
  | loadiImm5 | loadiImm16 => exact Res.ensures_next (writeG_advance_keeps hK h _ _ _)
  | loadxy n m => exact execLoadxy_keeps hK h n m
  | storedInd | storedIdx | storedPc | storedOff | storexInd | storexIdx | storexPc | storexOff | storeyInd | storeyIdx
  | storeyPc | storeyOff | storeiImm5 | storeiImm16 | storep => exact storeWordAt_keeps hK h _ _ _
  | storebInd | storebIdx | storebPc | storebOff | storepb => exact storeByteAt_keeps hK h _ _ _
  | storexy n m => exact execStorexy_keeps hK h n m

/-! ### The control state -/

/-- The input, the configuration and, but for the instructions that write them, IE and the halted state are those of `s`. -/
def ControlOf (i : Instr) (s t : State) : Prop :=
  (isHalt i = false → t.halted = s.halted ∧ t.haltCode = s.haltCode) ∧ (writesIE i = false → t.ie = s.ie) ∧
    t.irq = s.irq ∧ t.cfg = s.cfg

theorem controlOf_closed (i : Instr) (s : State) : Closed (ControlOf i s) where
  regs := by
    rintro t u ⟨-, -, -, hirq, hie, hhalted, hcode, hcfg, -⟩ h
    simpa only [ControlOf, hirq, hie, hhalted, hcode, hcfg] using h
  word _ _ h := h
  byte _ _ h := h

/-- Settles O19: `ControlOf` is kept by every part of an instruction, and a write of IE or of the halted state by the instructions
that it excepts. -/
theorem controlWriters : Obligations.ControlWriters := by
  unfold Obligations.ControlWriters
  intro i s t hexec
  refine exec_keeps (controlOf_closed i s) i ?ie ?halt ⟨fun _ => ⟨rfl, rfl⟩, fun _ => rfl, rfl, rfl⟩ t hexec
  case ie =>
    rintro hwrites t b ⟨hhalt, -, hrest⟩
    exact ⟨hhalt, fun hno => absurd (hwrites.symm.trans hno) (by decide), hrest⟩
  case halt =>
    rintro hhalts t n ⟨-, hrest⟩
    exact ⟨fun hno => absurd (hhalts.symm.trans hno) (by decide), hrest⟩

end Sys2Proof.ExecRules
end

section
/-!
What a step does to memory, the output, the configuration and the count of draws (20_memory.md section 1): byte stores at addresses that
are RAM for stores, and nothing else. The invariant of memory and the statement of where a step stores follow from it.
-/

namespace Sys2Proof.StepRules

open Sys2Proof.Machine Sys2Proof.Safety Sys2Proof.ExecRules

/-! ### A predicate that instructions keep is kept by the step -/

/-- A predicate that does not depend on the control state and the input, and that the parts of instructions keep, is kept by every
step. -/
theorem step_keeps {K : State → Prop} (hK : Closed K)
    (hcontrol : ∀ {t : State} (ie halted : Bool) (code : Byte) (irq : List Byte), K t →
      K { t with ie := ie, halted := halted, haltCode := code, irq := irq })
    {s : State} (h : K s) : Res.Ensures K (step s) := by
  have hend {r : Res State} (hr : Res.Ensures K r) : Res.Ensures K (endStep r) :=
    hr.bind fun t ht => Res.ensures_next (hcontrol t.ie t.halted t.haltCode t.irq.tail ht)
  have hie {t : State} (b : Bool) (ht : K t) : K { t with ie := b } := hcontrol b t.halted t.haltCode t.irq ht
  have hhalt {t : State} (n : Byte) (ht : K t) : K { t with halted := true, haltCode := n } :=
    hcontrol t.ie true n t.irq ht
  unfold step atBoundary
  split
  · exact hend (interruptEntry_keeps hK (hcontrol s.ie false s.haltCode s.irq h) hie s.pc)
  split
  · refine Res.ensures_next ?_
    unfold State.waitHalted
    split
    · exact h
    · exact hcontrol s.ie s.halted s.haltCode s.irq.tail h
  · refine hend (Res.Ensures.bind (P := fun f => K f.2) ?fetch ?run)
    case fetch =>
      intro f hf
      obtain ⟨-, j, hj⟩ := fetch_eq_next s f hf
      rw [hj]
      exact drawn_keeps hK h j
    case run =>
      intro f hf
      split
      · exact exec_keeps hK _ (fun _ => hie) (fun _ => hhalt) hf
      · exact Res.ensures_refused K _

/-! ### Byte stores in RAM -/

/-- RAM after byte stores, the first of the list first. -/
def storeBytes (ws : List (Addr × Byte)) (m : Memory) : Memory := ws.foldl (fun m w => m.set w.1.toNat w.2) m

theorem storeBytes_append (ws vs : List (Addr × Byte)) (m : Memory) :
    storeBytes (ws ++ vs) m = storeBytes vs (storeBytes ws m) := List.foldl_append

/-- From `s` to `t` bytes are stored where a store is one in RAM, output events are added, values are drawn, and neither the ROM
image nor the configuration changes. -/
structure RamStoresOnly (s t : State) : Prop where
  mem : ∃ ws : List (Addr × Byte), (∀ w ∈ ws, s.kind .store w.1 = .ram) ∧ t.mem = storeBytes ws s.mem
  rom : t.rom = s.rom
  out : ∃ new, t.out = new ++ s.out
  cfg : t.cfg = s.cfg
  draws : s.draws ≤ t.draws

theorem ramStoresOnly_refl (s : State) : RamStoresOnly s s :=
  ⟨⟨[], by simp, rfl⟩, rfl, ⟨[], rfl⟩, rfl, Nat.le_refl _⟩

/-- A byte of a store is stored where it is one in RAM, and nowhere else. -/
theorem memStored_of_ramStores {s t : State} (hcfg : t.cfg = s.cfg) {m : Memory}
    (h : ∃ ws : List (Addr × Byte), (∀ w ∈ ws, s.kind .store w.1 = .ram) ∧ m = storeBytes ws s.mem) (a : Addr) (v : Byte) :
    ∃ ws : List (Addr × Byte), (∀ w ∈ ws, s.kind .store w.1 = .ram) ∧ t.memStored m a v = storeBytes ws s.mem := by
  obtain ⟨ws, hws, rfl⟩ := h
  unfold State.memStored
  split
  · rename_i hram
    rw [State.kind_congr hcfg] at hram
    refine ⟨ws ++ [(a, v)], fun w hw => ?_, by rw [storeBytes_append]; rfl⟩
    rcases List.mem_append.1 hw with hw | hw
    · exact hws w hw
    · obtain rfl := List.mem_singleton.1 hw
      exact hram
  · exact ⟨ws, hws, rfl⟩

theorem outAfter_eq_append (s : State) (a : Addr) (v : Word) (old : List DevWrite) :
    ∃ new, outAfter s a v old = new ++ old := by
  unfold outAfter
  split
  · exact ⟨[_], rfl⟩
  split
  · exact ⟨[_], rfl⟩
  split
  · exact ⟨[_], rfl⟩
  · exact ⟨[], rfl⟩

theorem ramStoresOnly_closed (s : State) : Closed (RamStoresOnly s) where
  regs := by
    rintro t u ⟨hmem, hrom, hout, -, -, -, -, hcfg, hdraws⟩ h
    exact ⟨by rw [hmem]; exact h.mem, hrom.trans h.rom, by rw [hout]; exact h.out, hcfg.trans h.cfg, h.draws.trans hdraws⟩
  word := by
    intro t a v h
    refine ⟨memStored_of_ramStores h.cfg (memStored_of_ramStores h.cfg h.mem _ _) _ _, h.rom, ?_, h.cfg, h.draws⟩
    obtain ⟨old, hold⟩ := h.out
    obtain ⟨new, hnew⟩ := outAfter_eq_append t a v t.out
    exact ⟨new ++ old, by rw [State.storedWord_out, hnew, hold, List.append_assoc]⟩
  byte := by
    intro t a v h
    refine ⟨memStored_of_ramStores h.cfg h.mem _ _, h.rom, ?_, h.cfg, h.draws⟩
    obtain ⟨old, hold⟩ := h.out
    rw [State.storedByte_out, hold]
    split
    · exact ⟨.byte a v :: old, rfl⟩
    · exact ⟨old, rfl⟩

/-- All that a step does to memory, output, configuration and draws. -/
theorem step_ramStoresOnly {s t : State} (h : step s = .next t) : RamStoresOnly s t :=
  step_keeps (ramStoresOnly_closed s) (fun _ _ _ _ ht => ⟨ht.mem, ht.rom, ht.out, ht.cfg, ht.draws⟩)
    (ramStoresOnly_refl s) t h

/-! ### Where a step stores -/

theorem storeBytes_get?_of_ne {ws : List (Addr × Byte)} {k : Nat} (h : ∀ w ∈ ws, k ≠ w.1.toNat) (m : Memory) :
    (storeBytes ws m).get? k = m.get? k := by
  induction ws generalizing m with
  | nil => rfl
  | cons w ws ih =>
    have hrest := ih (fun w hw => h w (List.mem_cons_of_mem _ hw)) (m.set w.1.toNat w.2)
    rw [Memory.get?_set, if_neg (h w List.mem_cons_self)] at hrest
    exact hrest

/-- Settles O18: the bytes that a step stores are at addresses that are RAM for stores. -/
theorem stepStoresOnlyInRam : Obligations.StepStoresOnlyInRam := by
  unfold Obligations.StepStoresOnlyInRam
  intro s t hstep
  obtain ⟨⟨ws, hws, hmem⟩, hrom, hout, hcfg, hdraws⟩ := step_ramStoresOnly hstep
  refine ⟨fun a ha => ?_, hrom, hout, hcfg, hdraws⟩
  rw [hmem]
  refine storeBytes_get?_of_ne (fun w hw heq => ha ?_) s.mem
  rw [BitVec.eq_of_toNat_eq heq]
  exact hws w hw

/-! ### The invariant of memory -/

/-- Byte stores keep the canonical form, and keep the cells inside any set `P` of addresses that holds the addresses stored at. -/
theorem storeBytes_wf_and_cells {P : Nat → Prop} {ws : List (Addr × Byte)} (hws : ∀ w ∈ ws, P w.1.toNat) {m : Memory}
    (hm : m.wf) (hcells : ∀ c ∈ m, P c.1) : (storeBytes ws m).wf ∧ ∀ c ∈ storeBytes ws m, P c.1 := by
  induction ws generalizing m with
  | nil => exact ⟨hm, hcells⟩
  | cons w ws ih =>
    refine ih (fun w hw => hws w (List.mem_cons_of_mem _ hw)) (Memory.wf_set hm w.1.isLt w.2) fun c hc => ?_
    rcases Memory.set_addrs m w.1.toNat w.2 c.1 (List.mem_map_of_mem hc) with heq | hold
    · rw [heq]
      exact hws w List.mem_cons_self
    · obtain ⟨c', hc', heq⟩ := List.mem_map.1 hold
      rw [← heq]
      exact hcells c' hc'

/-- Settles O16: every byte that a step stores keeps the canonical form and is at an address that is RAM for stores; the ROM image
and the map stay. -/
theorem stepKeepsInv : Obligations.StepKeepsInv := by
  unfold Obligations.StepKeepsInv
  rintro s t ⟨⟨hwf, hcells⟩, hrom⟩ hstep
  obtain ⟨⟨ws, hws, hmem⟩, hromEq, -, hcfg, -⟩ := step_ramStoresOnly hstep
  have hstored : ∀ w ∈ ws, ∃ acc, s.kind acc (BitVec.ofNat 24 w.1.toNat) = .ram := by
    intro w hw
    rw [BitVec.ofNat_toNat, BitVec.setWidth_eq]
    exact ⟨.store, hws w hw⟩
  have hinv := storeBytes_wf_and_cells (P := fun k => ∃ acc, s.kind acc (BitVec.ofNat 24 k) = .ram) hstored hwf hcells
  simp only [MemoryInv, State.kind_congr hcfg, hmem, hromEq]
  exact ⟨hinv, hrom⟩

/-- Settles O17. -/
theorem resetInv : Obligations.ResetInv := by
  unfold Obligations.ResetInv
  exact ⟨⟨State.reset_mem_wf.1, nofun⟩, State.reset_mem_wf.2, nofun⟩

end Sys2Proof.StepRules
end

section
/-!
Memory accesses by kind, the memory map, effective addresses and the level of the interrupt lines (20_memory.md sections 1 to 3,
60_exceptions.md section 2).
-/

namespace Sys2Proof.MemoryRules

open Sys2Proof.Machine Sys2Proof.Safety

/-! ### Words and their bytes (R54) -/

theorem eq_wordBase {a b : Addr} (h : b.toNat = a.toNat / 2 * 2) : b = wordBase a :=
  BitVec.eq_of_toNat_eq (h.trans (wordBase_toNat a).symm)

@[simp] theorem lowerOf_ordered (s : State) (lower upper : Byte) : lowerOf s (ordered s lower upper) = lower := by
  rw [lowerOf_eq, ordered_eq]
  cases s.cfg.byteOrder
  · exact EncodingRules.hiByte_append lower upper
  · exact EncodingRules.loByte_append upper lower

@[simp] theorem upperOf_ordered (s : State) (lower upper : Byte) : upperOf s (ordered s lower upper) = upper := by
  rw [upperOf_eq, ordered_eq]
  cases s.cfg.byteOrder
  · exact EncodingRules.loByte_append lower upper
  · exact EncodingRules.hiByte_append upper lower

@[simp] theorem ordered_lowerOf_upperOf (s : State) (v : Word) : ordered s (lowerOf s v) (upperOf s v) = v := by
  rw [lowerOf_eq, upperOf_eq, ordered_eq, wordOfBytes_lower_upper]

/-! ### Accesses by kind (R52, R54, R56, R59, R67) -/

theorem not_aligned {s : State} {a : Addr} (h : ¬ Aligned s a) : a.toNat % 2 = 1 ∧ s.cfg.misaligned = .refuse :=
  (aligned_or_misaligned s a).resolve_left h

theorem readWord_misaligned {s : State} {a : Addr} (h : ¬ Aligned s a) : readWord a s = .refused .misaligned := by
  rw [readWord_eq_refused, readStop, if_pos (not_aligned h)]

theorem writeWord_misaligned {s : State} {a : Addr} (h : ¬ Aligned s a) (v : Word) :
    writeWord a v s = .refused .misaligned := by
  rw [writeWord_eq_refused, writeStop, if_pos (not_aligned h)]

/-- A word read is refused where the read of one of its bytes is: a byte read is refused for one reason only. -/
theorem readWord_refused_of_byte {s : State} {a : Addr} (h : Aligned s a) {why : Refusal}
    (hbyte : readByte (wordBase a) s = .refused why ∨ readByte (wordBase a + 1) s = .refused why) :
    readWord a s = .refused why := by
  simp only [readByte_eq_refused] at hbyte
  rw [readWord_eq_refused, readStop, if_neg (not_misaligned h)]
  rcases hbyte with hlower | hupper
  · rw [hlower, firstStop_some]
  · rw [hupper]
    unfold byteReadStop at hupper ⊢
    split
    · split at hupper <;> simp_all
    · rfl

/-- A word store that is no single access of a device is the stores of its two bytes, the lower first. -/
theorem writeWord_ordered {s : State} {a : Addr} (h : Aligned s a) (hdevice : ¬ DeviceWord s .store a) (lower upper : Byte) :
    writeWord a (ordered s lower upper) s =
      Res.bind (writeByte (wordBase a) lower s) fun t => writeByte (wordBase a + 1) upper t := by
  rw [writeWord_aligned h, if_neg hdevice, lowerOf_ordered, upperOf_ordered]

/-- Settles O11: the word accesses through their two bytes, the byte accesses by the four kinds. -/
theorem accessesByKind : Obligations.AccessesByKind := by
  unfold Obligations.AccessesByKind
  intro s a b hb order device
  obtain rfl := eq_wordBase hb
  have horder (lower upper : Byte) : order lower upper = ordered s lower upper := rfl
  refine ⟨?misaligned, fun h => ⟨?deviceRead, ?wordRead, ?deviceStore, ?wordStore⟩, ?ram, ?rom, ?device, ?none, ?store⟩
  case misaligned => exact fun h => ⟨readWord_misaligned h, writeWord_misaligned h⟩
  case deviceRead => exact fun hd => by rw [readWord_aligned h, if_pos hd]; rfl
  case wordRead =>
    refine fun hd => ⟨fun lower upper t u hlower hupper => ?_, fun why => readWord_refused_of_byte h⟩
    rw [readWord_aligned h, if_neg hd, hlower, Res.bind_next, hupper, Res.bind_next, horder, ordered_eq]
  case deviceStore => exact fun hd v => by rw [writeWord_aligned h, if_pos hd]
  case wordStore =>
    intro hd lower upper
    rw [horder, writeWord_ordered h hd]
    refine ⟨fun t u ht hu => ?_, fun why hwhy => ?_, fun t why ht hwhy => ?_⟩
    · rw [ht, Res.bind_next, hu]
    · rw [hwhy, Res.bind_refused]
    · rw [ht, Res.bind_next, hwhy]
  case ram => exact fun hk => by simp [readByte, readByteAs, hk, State.ramByte]
  case rom => exact fun hk => by simp [readByte, readByteAs, hk, State.romByte]
  case device => exact fun hk => by simp [readByte, readByteAs, hk, State.drawn]
  case none => exact fun hk => by simp [readByte, readByteAs, hk]
  case store =>
    intro v
    refine ⟨fun hk => ⟨s.mem.set a.toNat v, by simp [writeByte, hk], by simp⟩, fun hk => ?_, fun hk => ?_, fun hk => ?_⟩
    all_goals simp [writeByte, hk]

/-! ### Words in RAM, stored and read back -/

/-- RAM holds the word `v` at `a`, in the byte order of the configuration (R54). -/
def HoldsWord (s : State) (a : Addr) (v : Word) : Prop :=
  s.mem.get? (wordBase a).toNat = some (lowerOf s v) ∧ s.mem.get? (wordBase a + 1).toNat = some (upperOf s v)

theorem holdsWord_storedWord {s : State} {a : Addr} (h : InRam s a) (v : Word) : HoldsWord (s.storedWord a v) a v := by
  obtain ⟨⟨-, hlower⟩, -, hupper⟩ := h
  have := wordBase_succ_toNat a
  constructor
  · rw [storedWord_get?, cellAfter, if_pos ⟨rfl, hlower⟩]
    rfl
  · rw [storedWord_get?, cellAfter, if_neg (by omega), if_pos ⟨rfl, hupper⟩]
    rfl

theorem toNat_wordBase_ne {a c : Addr} (h : wordBase a ≠ wordBase c) :
    (wordBase a).toNat ≠ (wordBase c).toNat ∧ (wordBase a).toNat ≠ (wordBase c).toNat + 1 ∧
      (wordBase a).toNat + 1 ≠ (wordBase c).toNat := by
  have hne : (wordBase a).toNat ≠ (wordBase c).toNat := fun he => h (BitVec.eq_of_toNat_eq he)
  have := wordBase_toNat a
  have := wordBase_toNat c
  omega

/-- The store of a word leaves the other words of RAM as they are (R54). -/
theorem HoldsWord.storedWord {s : State} {a c : Addr} {v : Word} (h : HoldsWord s a v) (hne : wordBase a ≠ wordBase c)
    (w : Word) : HoldsWord (s.storedWord c w) a v := by
  have ha := wordBase_succ_toNat a
  have hc := wordBase_succ_toNat c
  obtain ⟨h0, h1, h2⟩ := toNat_wordBase_ne hne
  constructor
  · rw [storedWord_get?, cellAfter, if_neg (by omega), if_neg (by omega)]
    exact h.1
  · rw [storedWord_get?, cellAfter, if_neg (by omega), if_neg (by omega)]
    exact h.2

theorem byteAt_of_ram {s : State} {a : Addr} {b : Byte} (hram : s.kind .load a = .ram) (hb : s.mem.get? a.toNat = some b)
    (k : Nat) : byteAt s k a = b := by
  simp [byteAt, memByte, State.ramByte, hram, hb]

theorem readByte_of_ram {s : State} {a : Addr} {b : Byte} (hram : s.kind .load a = .ram)
    (hb : s.mem.get? a.toNat = some b) : readByte a s = .next (b, s) := by
  rw [readByte_next (by simp [ByteReadable, hram]), byteAt_of_ram hram hb, byteDraws, if_neg (by simp [hram]),
    State.drawn_zero]

theorem wordAt_of_holdsWord {s : State} {a : Addr} {v : Word} (hram : InRam s a) (h : HoldsWord s a v) (k : Nat) :
    wordAt s k a = v := by
  have hdevice : ¬ DeviceWord s .load a := by
    rintro ⟨hd, -⟩
    simp [hram.1.1] at hd
  rw [wordAt, if_neg hdevice, byteAt_of_ram hram.1.1 h.1, byteAt_of_ram hram.2.1 h.2, ordered_lowerOf_upperOf]

theorem drawCount_of_inRam {s : State} {a : Addr} (h : InRam s a) : drawCount s a = 0 := by
  simp [drawCount, h.1.1, show s.kind .load (wordBase a + 1#24) = .ram from h.2.1]

theorem wordReadable_of_inRam {s : State} {a : Addr} (ha : Aligned s a) (h : InRam s a) : WordReadable s a :=
  ⟨ha, by simp [h.1.1], by rw [h.2.1]; decide⟩

theorem wordWritable_of_inRam {s : State} {a : Addr} (ha : Aligned s a) (h : InRam s a) : WordWritable s a :=
  ⟨ha, .inl h.1.2, .inl h.2.2⟩

/-- A byte of RAM or ROM that no store changes is read as before. -/
theorem readByte_same {s t : State} {c : Addr} (hcfg : t.cfg = s.cfg) (hmem : t.mem.get? c.toNat = s.mem.get? c.toNat)
    (hrom : t.rom = s.rom) (hkind : s.kind .load c = .ram ∨ s.kind .load c = .rom) :
    ∃ w, readByte c s = .next (w, s) ∧ readByte c t = .next (w, t) := by
  have hkind' := State.kind_congr hcfg .load c
  rcases hkind with hk | hk
  · exact ⟨s.ramByte c, by simp [readByte, readByteAs, hk], by simp [readByte, readByteAs, hkind', hk, State.ramByte, hmem]⟩
  · exact ⟨s.romByte c, by simp [readByte, readByteAs, hk], by simp [readByte, readByteAs, hkind', hk, State.romByte, hrom]⟩

/-- Settles O13: the word that RAM holds after the store is what reads find, and the cells of other bytes are as before. -/
theorem wordStoreReadBack : Obligations.WordStoreReadBack := by
  unfold Obligations.WordStoreReadBack
  intro s a b v haligned hram hb
  obtain rfl := eq_wordBase hb
  have hholds := holdsWord_storedWord hram v
  have hram' : InRam (s.storedWord a v) a := hram
  have hlower : readByte (wordBase a) (s.storedWord a v) = .next (lowerOf s v, s.storedWord a v) :=
    readByte_of_ram hram.1.1 hholds.1
  have hupper : readByte (wordBase a + 1) (s.storedWord a v) = .next (upperOf s v, s.storedWord a v) :=
    readByte_of_ram hram.2.1 hholds.2
  refine ⟨s.storedWord a v, writeWord_next (wordWritable_of_inRam haligned hram) v, ?word, ?big, ?little, ?others⟩
  case word =>
    rw [readWord_next (wordReadable_of_inRam (s := s.storedWord a v) haligned hram'), wordAt_of_holdsWord hram' hholds,
      drawCount_of_inRam hram', State.drawn_zero]
  case big => exact fun ho => ⟨by simpa [lowerOf, ho] using hlower, by simpa [upperOf, ho] using hupper⟩
  case little => exact fun ho => ⟨by simpa [lowerOf, ho] using hlower, by simpa [upperOf, ho] using hupper⟩
  case others =>
    intro c hc hc' hkind
    refine readByte_same rfl ?_ rfl hkind
    rw [storedWord_get?, cellAfter, if_neg (fun h => hc (BitVec.eq_of_toNat_eq h.1)),
      if_neg (fun h => hc' (BitVec.eq_of_toNat_eq h.1))]

/-! ### The memory map (R51, R52, decision D33) -/

theorem kindIn_cons (r : Region) (map : List Region) (acc : Access) (a : Addr) :
    kindIn (r :: map) acc a =
      if r.first.toNat ≤ a.toNat ∧ a.toNat ≤ r.last.toNat then r.kind acc else kindIn map acc a := by
  by_cases h : r.first.toNat ≤ a.toNat ∧ a.toNat ≤ r.last.toNat <;> simp [kindIn, inRegion, h]

theorem canonField_default (f : BitVec 9) : canonField Config.default.operandLayout f = f := by
  revert f; decide

theorem canonCode_default (c : BitVec 4) : canonCode Config.default.regCodes c = c := by
  revert c; decide

theorem canonWord_default (iw : Word) : canonWord Config.default iw = iw := by
  simp only [canonWord, canonField_default, canonCode_default, ite_self]
  apply BitVec.eq_of_getLsbD_eq
  intro k hk
  simp only [fOperand, BitVec.getLsbD_append, BitVec.getLsbD_extractLsb']
  interval_cases k <;> rfl

theorem canonBytes_default (bs : List Byte) : canonBytes Config.default bs = bs := by
  unfold canonBytes
  split
  · rw [canonWord_default, ← EncodingRules.takeWord_eq_some ‹_›]
  · rfl

/-- Settles O12. -/
theorem memoryMap : Obligations.MemoryMap := by
  unfold Obligations.MemoryMap
  refine ⟨fun r map acc a => ⟨rfl, ?cons⟩, fun s acc a hcfg => ?kinds, canonBytes_default, rfl, rfl, rfl, rfl, rfl, rfl, rfl,
    rfl, rfl⟩
  case cons =>
    rw [kindIn_cons]
    cases acc <;> rfl
  case kinds =>
    have hkind : s.kind acc a = kindIn Config.defaultMap acc a := by rw [State.kind, hcfg]; rfl
    rw [hkind, kindIn_defaultMap]
    have := a.isLt
    split
    · simp; omega
    split
    · simp; omega
    split
    · simp; omega
    · simp; omega

/-! ### Effective addresses (R60 to R64) -/

theorem toNat_mkAddr (b : Byte) (w : Word) : (mkAddr b w).toNat = b.toNat * 65536 + w.toNat := by
  have := w.isLt
  rw [mkAddr, BitVec.toNat_append, Nat.shiftLeft_eq, Nat.mul_comm, ← Nat.two_pow_add_eq_or_of_lt this, Nat.mul_comm]

/-- A signed 16-bit offset added to an address, modulo 2^24 (R62, R71). -/
theorem toNat_add_signExtend (a : Addr) (off : Word) :
    ((a + off.signExtend 24).toNat : Int) = ((a.toNat : Int) + off.toInt) % 2 ^ 24 := by
  rw [BitVec.toNat_add, BitVec.signExtend, BitVec.toNat_ofInt]
  generalize off.toInt = i
  omega

/-- A 5-bit immediate added to an address, modulo 2^24 (R63, R71, R88). -/
theorem toNat_add_imm5Addr (a : Addr) (i : Imm5) : (a + imm5Addr i).toNat = (a.toNat + i.toNat) % 2 ^ 24 := by
  have := i.isLt
  rw [BitVec.toNat_add, imm5Addr, BitVec.toNat_setWidth, Nat.mod_eq_of_lt (a := i.toNat) (by omega)]

theorem toNat_readG_y (s : State) (n : Idx) : (s.readG (.y n)).toNat = (s.y.get n).toNat := by
  have := (s.y.get n).isLt
  rw [State.readG, BitVec.toNat_setWidth, Nat.mod_eq_of_lt (by omega)]

theorem toNat_eaIdx (s : State) (n m : Idx) :
    (s.eaIdx n m).toNat = ((s.eaInd n).toNat + (s.readG (.d m)).toNat) % 2 ^ 24 := by
  have := (s.d.get m).isLt
  rw [State.eaIdx, BitVec.toNat_add, BitVec.toNat_setWidth, Nat.mod_eq_of_lt (a := (s.d.get m).toNat) (by omega)]
  rfl

/-- Settles O14. -/
theorem effectiveAddresses : Obligations.EffectiveAddresses := by
  unfold Obligations.EffectiveAddresses
  intro s n m off i len
  refine ⟨?ind, toNat_eaIdx s n m, toNat_add_imm5Addr _ i, fun hbase => ?nextPc, fun hbase => ?thisPc, ?paged⟩
  case ind => rw [State.eaInd, State.xy, toNat_mkAddr, toNat_readG_y, State.readG]
  case nextPc =>
    rw [State.eaPc, toNat_add_signExtend, State.pcBase, hbase, State.nextPc, BitVec.toNat_add, BitVec.toNat_ofNat]
    omega
  case thisPc => rw [State.eaPc, toNat_add_signExtend, State.pcBase, hbase]
  case paged => rw [State.eaPaged, toNat_mkAddr, toNat_readG_y]

/-! ### The level of the interrupt lines (R35, R312) -/

/-- Settles O48, line by line: the lines above line `k` are not asserted, so that the chain of tests stops at line `k`. -/
theorem levelOfLines : Obligations.LevelOfLines := by
  unfold Obligations.LevelOfLines
  intro lines
  refine ⟨by rintro rfl; rfl, fun k hk hline habove => ?_⟩
  interval_cases k <;> simp [levelOf, hline, habove, -BitVec.getLsbD_eq_getElem]

end Sys2Proof.MemoryRules
end

section
/-!
The step at an instruction boundary (20_memory.md section 2, 60_exceptions.md section 3), the halted state, and reset
(70_reset_and_hazards.md section 1).
-/

namespace Sys2Proof.BoundaryRules

open Sys2Proof.Machine Sys2Proof.Safety Sys2Proof.ControlRules

/-! ### The step where no interrupt is accepted (R313) -/

theorem accepts_of_no_request {s : State} (h : s.ie = false ∨ s.irqNow = 0) : s.accepts = false := by
  rcases h with h | h <;> simp [State.accepts, h]

section NoRequest

variable {s : State} (hhalted : s.halted = false) (hno : s.ie = false ∨ s.irqNow = 0)
include hhalted hno

theorem step_of_runInstr_next {u : State} (h : runInstr s = .next u) : step s = .next { u with irq := u.irq.tail } := by
  rw [step_of_not_accepts (accepts_of_no_request hno) hhalted, h]
  rfl

theorem step_of_runInstr_refused {e : Refusal} (h : runInstr s = .refused e) : step s = .refused e := by
  rw [step_of_not_accepts (accepts_of_no_request hno) hhalted, h]
  rfl

/-- The step is `exec` of what the fetch finds, and then the input moves on. -/
theorem step_of_runInstr_exec {t : State} {i : Instr} (h : runInstr s = exec i t) :
    (∀ u, exec i t = .next u → step s = .next { u with irq := u.irq.tail }) ∧
      ∀ e, exec i t = .refused e → step s = .refused e :=
  ⟨fun _ hu => step_of_runInstr_next hhalted hno (h.trans hu), fun _ he => step_of_runInstr_refused hhalted hno (h.trans he)⟩

end NoRequest

/-- Settles O5. -/
theorem stepRunsDecoded : Obligations.StepRunsDecoded := by
  unfold Obligations.StepRunsDecoded
  intro s t bs rest i hhalted hno hfetch hdecode
  exact step_of_runInstr_exec hhalted hno (runInstr_of_decode hfetch hdecode)

/-! ### The fetch of an encoded instruction (R57, R84) -/

/-- A fetch is that of as many words as the first one says. -/
theorem fetch_eq_fetchWords {s t : State} {w : Word} (haligned : Aligned s s.pc)
    (hread : readWordAs .fetch s.pc s = .next (w, t)) : fetch s = fetchWords (wordsOf w) s.pc s := by
  obtain ⟨k, hk⟩ := Nat.exists_eq_add_of_le' (EncodingRules.wordsOf_bounds w).1
  rw [fetch, if_pos ((State.wordOk_iff s s.pc).2 haligned), hk, fetchWords, hread]
  simp [hk]

theorem length_encode (i : Instr) : (encode i).length = 2 * (encodeWords i).length := by
  have hlength (ws : List Word) : (ws.flatMap wordBytes).length = 2 * ws.length := by
    induction ws with
    | nil => rfl
    | cons w ws ih => simp [wordBytes, ih]; omega
  exact hlength _

/-- The bytes of a word determine it. -/
theorem wordBytes_append_inj {v w : Word} {vs ws : List Byte} (h : wordBytes v ++ vs = wordBytes w ++ ws) : v = w := by
  have htake := congrArg takeWord h
  simp only [takeWord_wordBytes, Option.some.injEq, Prod.mk.injEq] at htake
  exact htake.1

/-- Where the words of an instruction stand in RAM or ROM at an even `pc`, the fetch finds them and changes nothing. -/
theorem fetch_of_codeAt {s : State} {i : Instr} (heven : s.pc.toNat % 2 = 0) (hcode : CodeAt s s.pc (encode i)) :
    ∃ bs, fetch s = .next (bs, s) ∧ canonBytes s.cfg bs = encode i := by
  obtain ⟨hkinds, hbytes⟩ := hcode
  obtain ⟨k, hk⟩ := Nat.exists_eq_add_of_le' (EncodingRules.encodeWords_length_bounds i).1
  have hlen := length_encode i
  have hhalf : (encode i).length / 2 = k + 1 := by omega
  rw [hhalf] at hbytes
  have h0 : s.kind .fetch s.pc = .ram ∨ s.kind .fetch s.pc = .rom := by simpa using hkinds 0 (by omega)
  have h1 : s.kind .fetch (s.pc + 1) = .ram ∨ s.kind .fetch (s.pc + 1) = .rom := by simpa using hkinds 1 (by omega)
  have hread := readWordAs_memory (acc := .fetch) (s := s) (.inl heven) (by rwa [wordBase_of_even heven])
    (by rwa [wordBase_of_even heven])
  refine ⟨wordsFrom s (k + 1) s.pc, ?_, hbytes⟩
  rw [fetch_eq_fetchWords (.inl heven) hread, wordBase_of_even heven]
  have hwords : wordsOf (ordered s (memByte s .fetch s.pc) (memByte s .fetch (s.pc + 1))) = k + 1 := by
    rw [← wordsOf_canonWord s.cfg, ← hk, EncodingRules.encodeWords_length i]
    match hws : encodeWords i with
    | [] => simp [hws] at hk
    | w :: ws =>
      rw [wordsFrom, canonBytes_wordBytes, encode, hws] at hbytes
      exact congrArg wordsOf (wordBytes_append_inj hbytes)
  rw [hwords]
  exact fetchWords_memory (k + 1) s.pc s heven fun j hj => hkinds j (by omega)

/-- Settles O6: the fetch finds the encoding, and decoding undoes it. -/
theorem stepRunsEncoded : Obligations.StepRunsEncoded := by
  unfold Obligations.StepRunsEncoded
  intro s i hhalted hno heven hwf hcode
  obtain ⟨bs, hfetch, hbytes⟩ := fetch_of_codeAt heven hcode
  have hdecode : decode (canonBytes s.cfg bs) = .ok (i, []) := EncodingRules.decode_of_encode hwf hbytes.symm
  exact step_of_runInstr_exec hhalted hno (runInstr_of_decode hfetch hdecode)

/-! ### Refusals of a step (R52, R57, R104) -/

theorem fetch_misaligned {s : State} (hodd : s.pc.toNat % 2 = 1) (hmis : s.cfg.misaligned = .refuse) :
    fetch s = .refused .oddPc := by
  rw [fetch, if_neg (fun h => not_misaligned ((State.wordOk_iff s s.pc).1 h) ⟨hodd, hmis⟩)]

/-- A word read of which a byte has no kind for it is refused (R52). -/
theorem readWordAs_unmapped {acc : Access} {a : Addr} {s : State} (haligned : Aligned s a)
    (h : s.kind acc (wordBase a) = .none ∨ s.kind acc (wordBase a + 1) = .none) :
    readWordAs acc a s = .refused .unmapped := by
  simp only [readWordAs, (State.wordOk_iff s a).2 haligned, if_true]
  cases hlower : s.kind acc (wordBase a) with
  | none => simp [State.deviceWordAt, readByteAs, hlower]
  | ram | rom | device =>
    have hupper : s.kind acc (wordBase a + 1#24) = .none := h.resolve_left (by simp [hlower])
    simp [State.deviceWordAt, readByteAs, hlower, hupper]

/-- Settles O7. -/
theorem stepRefusals : Obligations.StepRefusals := by
  unfold Obligations.StepRefusals
  intro s hhalted hno
  refine ⟨fun hodd hmis => ?odd, fun haligned hnone => ?unmapped, fun bs t why hfetch hdecode => ?reserved⟩
  case odd =>
    refine step_of_runInstr_refused hhalted hno ?_
    rw [runInstr, fetch_misaligned hodd hmis, Res.bind_refused]
  case unmapped =>
    refine step_of_runInstr_refused hhalted hno ?_
    rw [runInstr, fetch, if_pos ((State.wordOk_iff s s.pc).2 haligned), readWordAs_unmapped haligned hnone]
    rfl
  case reserved =>
    refine step_of_runInstr_refused hhalted hno ?_
    rw [runInstr, hfetch, Res.bind_next, hdecode]

/-! ### The halted state (R38, R291) -/

theorem step_halted_never {s : State} (hhalted : s.halted = true) (hwake : s.cfg.haltWake = .never) :
    step s = .next s := by
  simp [step, atBoundary, State.accepts, State.waitHalted, hhalted, hwake]

theorem step_halted_waits {s : State} (hhalted : s.halted = true) (hwake : s.cfg.haltWake = .interrupt)
    (hno : s.ie = false ∨ s.irqNow = 0) : step s = .next s.tick := by
  simp [step, atBoundary, accepts_of_no_request hno, State.waitHalted, hhalted, hwake]

theorem irqNow_eq_getD (s : State) : s.irqNow = s.irq.getD 0 0 := by
  unfold State.irqNow
  cases s.irq <;> rfl

theorem run_succ_of_next {s t : State} (h : step s = .next t) (k : Nat) :
    Host.Core.run core (k + 1) s = Host.Core.run core k t := by
  have hstep : core.step s = .next t := h
  simp only [Host.Core.run, hstep]

/-- Settles O10, by induction on the number of steps. -/
theorem haltedIsFinal : Obligations.HaltedIsFinal := by
  unfold Obligations.HaltedIsFinal
  intro s k hhalted
  refine ⟨fun hwake => ?never, fun hwake hno => ?waits⟩
  case never =>
    induction k with
    | zero => rfl
    | succ k ih => exact (run_succ_of_next (step_halted_never hhalted hwake) k).trans ih
  case waits =>
    induction k generalizing s with
    | zero => rfl
    | succ k ih =>
      have hnow : s.ie = false ∨ s.irqNow = 0 := by
        rw [irqNow_eq_getD]
        exact hno 0 (by omega)
      refine (run_succ_of_next (step_halted_waits hhalted hwake hnow) k).trans ?_
      refine (ih s.tick hhalted hwake fun j hj => ?_).trans ?_
      · simpa using hno (j + 1) (by omega)
      · simp [State.tick]

/-! ### Reset (R351) -/

/-- Settles O15. -/
theorem resetValues : Obligations.ResetValues := by
  unfold Obligations.ResetValues
  refine ⟨⟨rfl, rfl, rfl, fun a => ⟨rfl, rfl⟩, rfl, rfl⟩, fun s => ?_⟩
  refine ⟨rfl, rfl, rfl, rfl, rfl, rfl, rfl, rfl, rfl, rfl, rfl, rfl, fun hcfg => ?_, fun _ => rfl, rfl, rfl, ?_⟩
  · simp [applyReset, hcfg, Config.default, Config.defaultReset]
  · exact .inr ⟨.inr rfl, .inr rfl, .inr rfl, .inr rfl⟩

/-! ### EINT and HALT (R291, R294) -/

/-- Settles O58. -/
theorem eintAndHalt : Obligations.EintAndHalt := by
  unfold Obligations.EintAndHalt
  exact fun s n => ⟨rfl, rfl⟩

end Sys2Proof.BoundaryRules
end

section
/-!
What the endings that instructions share do, in the terms of claims: the register, pair or flags that they write, and what they
leave unchanged (10_state.md sections 1 and 4).
-/

namespace Sys2Proof.EndingRules

open Sys2Proof.Machine Sys2Proof.Safety

theorem ofNat_toNat_addr (a : Addr) : BitVec.ofNat 24 a.toNat = a := by
  rw [BitVec.ofNat_toNat, BitVec.setWidth_eq]

/-- The end of an instruction whose length is given as an address offset. -/
@[simp] theorem nextPc_toNat (s : State) (len : Addr) : s.nextPc len.toNat = s.pc + len := by
  rw [State.nextPc, ofNat_toNat_addr]

theorem pcBase_toNat (s : State) (len : Addr) : s.pcBase len.toNat = pcValue s len := by
  unfold State.pcBase pcValue
  cases s.cfg.pcRelBase
  · exact nextPc_toNat s len
  · rfl

/-! ### One register written -/

/-- A register after `wr16` of it (R22, R28). -/
@[simp] theorem readG_writeG_self (s : State) (g : Gpr) (w : Word) : (s.writeG g w).readG g = keptIn g w := by
  rw [State.readG_writeG, if_pos rfl]
  cases g with
  | d _ | x _ => rfl
  | y _ => exact LookupRules.lowFun_eq w

theorem regsKept_writeG (s : State) (g : Gpr) (w : Word) : RegsKept (· = g) s (s.writeG g w) :=
  fun _ hne => State.readG_writeG_of_ne s w hne

/-- From `s` to `t` the register `g` takes what it can hold of `w`, `pc` moves on by `len`, `k` values have been drawn in all, and
nothing else changes. -/
def RegisterWritten (s t : State) (g : Gpr) (w : Word) (len : Addr) (k : Nat) : Prop :=
  t.readG g = keptIn g w ∧ Frame (· = g) s t ∧ FlagsKept s t ∧ NoStore s t ∧ t.pc = s.pc + len ∧ t.draws = k

theorem registerWritten (s : State) (j : Nat) (g : Gpr) (w : Word) (len : Nat) :
    RegisterWritten s (((s.drawn j).writeG g w).advance len) g w (BitVec.ofNat 24 len) (s.draws + j) := by
  refine ⟨readG_writeG_self _ g w, ⟨regsKept_writeG (s.drawn j) g w, ?_⟩, ?_, ?_, ?_, ?_⟩
  · simp [ControlKept]
  · simp [FlagsKept]
  · simp [NoStore]
  · simp [State.nextPc]
  · simp

/-! ### A register and the flags written -/

section Alu

variable (s : State) (j : Nat) (dst : Gpr) (len : Nat)

theorem aluTo_readG (o : AluOut) : (aluTo dst o len (s.drawn j)).readG dst = keptIn dst o.res :=
  readG_writeG_self _ dst o.res

/-- Beside its register and the flags, an arithmetic instruction changes `pc` alone (R170, R176). -/
theorem aluTo_keeps (o : AluOut) :
    Frame (· = dst) s (aluTo dst o len (s.drawn j)) ∧ NoStore s (aluTo dst o len (s.drawn j)) ∧
      (aluTo dst o len (s.drawn j)).pc = s.pc + BitVec.ofNat 24 len ∧
      (aluTo dst o len (s.drawn j)).draws = s.draws + j := by
  refine ⟨⟨regsKept_writeG (s.drawn j) dst o.res, ?_⟩, ?_, ?_, ?_⟩ <;>
    simp [aluTo, ControlKept, NoStore, State.nextPc]

theorem logicTo_readG (res : Word) : (logicTo dst res len (s.drawn j)).readG dst = keptIn dst res :=
  readG_writeG_self _ dst res

/-- Beside its register and the flags, a logical instruction changes `pc` alone (R190). -/
theorem logicTo_keeps (res : Word) :
    Frame (· = dst) s (logicTo dst res len (s.drawn j)) ∧ NoStore s (logicTo dst res len (s.drawn j)) ∧
      (logicTo dst res len (s.drawn j)).pc = s.pc + BitVec.ofNat 24 len ∧
      (logicTo dst res len (s.drawn j)).draws = s.draws + j := by
  refine ⟨⟨regsKept_writeG (s.drawn j) dst res, ?_⟩, ?_, ?_, ?_⟩ <;>
    simp [logicTo, ControlKept, NoStore, State.nextPc]

theorem logicTo_v_trashed (res : Word) :
    (logicTo dst res len (s.drawn j)).v = s.v ∧
      (logicTo dst res len (s.drawn j)).trashed = ⟨false, false, false, s.trashed.v⟩ := by
  simp [logicTo, Flags.none]

/-- CMP changes the flags and `pc` alone (R230). -/
theorem cmpWith_keeps (b : Word) :
    Frame noReg s (cmpWith dst len b (s.drawn j)) ∧ NoStore s (cmpWith dst len b (s.drawn j)) ∧
      (cmpWith dst len b (s.drawn j)).pc = s.pc + BitVec.ofNat 24 len ∧
      (cmpWith dst len b (s.drawn j)).draws = s.draws + j := by
  refine ⟨⟨fun _ _ => rfl, ?_⟩, ?_, ?_, ?_⟩ <;> simp [cmpWith, ControlKept, NoStore, State.nextPc]

end Alu

/-! ### A pair written -/

theorem regsKept_setXY (s : State) (n : Idx) (a : Addr) : RegsKept (pairRegs n) s (s.setXY n a) := by
  intro g hg
  obtain ⟨hx, hy⟩ := not_or.1 hg
  rw [State.readG_setXY, if_neg hx, if_neg hy]

/-- The pair is written, the flags are draws and left undefined, and nothing else but `pc` changes (R160, R165, R180). -/
theorem leaTo_spec (s : State) (n : Idx) (a : Addr) (len : Nat) :
    (leaTo n a len s).xy n = a ∧ FlagsDrawn s.draws (leaTo n a len s) ∧ Frame (pairRegs n) s (leaTo n a len s) ∧
      NoStore s (leaTo n a len s) ∧ (leaTo n a len s).pc = s.pc + BitVec.ofNat 24 len ∧
      (leaTo n a len s).draws = s.draws + 4 := by
  refine ⟨?_, ?_, ⟨regsKept_setXY s n a, ?_⟩, ?_, ?_, ?_⟩ <;>
    simp [leaTo, FlagsDrawn, Flags.all, ControlKept, NoStore, State.nextPc]

end Sys2Proof.EndingRules
end

section
/-!
Arithmetic, logical instructions, CMP and LEA (42_arithmetic.md, 43_logical.md, 45_compare_scc.md section 1, 41_lea.md): the second
operand in its four modes, once for all operations, and the results and flags of the ALU as numbers.
-/

namespace Sys2Proof.AluRules

open Sys2Proof.Machine Sys2Proof.Safety Sys2Proof.EndingRules

/-! ### The second operand (R170) -/

/-- An ending `k` on the second operand and the state that its read leaves: what all four modes of an instruction do. -/
def withSrc (src : Src) (s : State) (k : Word → State → State) : Res State :=
  match src with
  | .reg g => .next (k (s.readG g) s)
  | .mem n => withMem n s k
  | .imm5 i => .next (k (imm5Word i) s)
  | .imm16 v => .next (k v s)

/-- How many values the read of an operand draws. -/
def srcDraws (s : State) : Src → Nat
  | .mem n => drawCount s (s.xy n)
  | _ => 0

theorem draws_add_srcDraws (s : State) (src : Src) : s.draws + srcDraws s src = src.draws s := by
  cases src with
  | mem n => exact (drawsAfter_eq s s.draws (s.xy n)).symm
  | reg _ | imm5 _ | imm16 _ => rfl

theorem withSrc_next {src : Src} {s : State} (h : src.ok s) (k : Word → State → State) :
    withSrc src s k = .next (k (src.value s) (s.drawn (srcDraws s src))) := by
  cases src with
  | mem n => rw [withSrc, withMem, readWord_next h, Res.bind_next]; rfl
  | reg _ | imm5 _ | imm16 _ => rfl

theorem withSrc_refused {src : Src} {s : State} {why : Refusal} (h : src.stop s = some why) (k : Word → State → State) :
    withSrc src s k = .refused why := by
  cases src with
  | mem n => rw [withSrc, withMem, (readWord_eq_refused _ _ _).2 h, Res.bind_refused]
  | reg _ | imm5 _ | imm16 _ => cases h

/-! ### Addition and subtraction as numbers (R171) -/

theorem overflows_iff (t : Int) : overflows t = true ↔ t < -32768 ∨ 32767 < t := by
  simp [overflows]

theorem msb_eq_getLsbD (w : Word) : w.msb = w.getLsbD 15 := BitVec.msb_eq_getLsbD_last w

theorem addOut_c (a b : Word) (cin : Bool) :
    (addOut a b cin).flags.c = true ↔ 65536 ≤ a.toNat + b.toNat + cin.toNat := by
  simp [addOut]

theorem addOut_z (a b : Word) (cin : Bool) : (addOut a b cin).flags.z = true ↔ (addOut a b cin).res = 0 := by
  simp [addOut]

theorem addOut_v (a b : Word) (cin : Bool) :
    (addOut a b cin).flags.v = true ↔
      a.toInt + b.toInt + (cin.toNat : Int) < -32768 ∨ 32767 < a.toInt + b.toInt + (cin.toNat : Int) :=
  overflows_iff _

/-- The 17-bit sum with the complement is the difference (R171). -/
theorem subOut_res (a b : Word) (cin : Bool) : (subOut a b cin).res = a - b - BitVec.ofNat 16 (1 - cin.toNat) := by
  have := a.isLt
  have := b.isLt
  apply BitVec.eq_of_toNat_eq
  cases cin <;> simp [subOut] <;> omega

theorem subOut_c (a b : Word) (cin : Bool) :
    (subOut a b cin).flags.c = true ↔ b.toNat + (1 - cin.toNat) ≤ a.toNat := by
  have := b.isLt
  cases cin <;> simp [subOut] <;> omega

theorem subOut_z (a b : Word) (cin : Bool) : (subOut a b cin).flags.z = true ↔ (subOut a b cin).res = 0 := by
  simp [subOut]

theorem subOut_v (a b : Word) (cin : Bool) :
    (subOut a b cin).flags.v = true ↔
      a.toInt - b.toInt - ((1 - cin.toNat : Nat) : Int) < -32768 ∨
        32767 < a.toInt - b.toInt - ((1 - cin.toNat : Nat) : Int) := by
  have hborrow : ((1 - cin.toNat : Nat) : Int) = 1 - (cin.toNat : Int) := by cases cin <;> rfl
  rw [hborrow]
  exact overflows_iff _

/-! ### ADD and ADC, SUB and SBC -/

/-- ADD and ADC: the carry in is C for ADC and 0 for ADD (R172, R173). -/
theorem exec_addition (s : State) (dst : Gpr) (src : Src) (withCarry : Bool) :
    exec (AluOp.instr (if withCarry then .adc else .add) dst src) s =
      readingFlags (AluOp.reads (if withCarry then .adc else .add)) s
        (withSrc src s fun b t => aluTo dst (addOut (t.readG dst) b (withCarry && t.c)) src.len.toNat t) := by
  cases withCarry with
  | false =>
    refine Eq.trans ?_ (readingFlags_ok (FlagsReadable_none s) _).symm
    cases src <;> rfl
  | true => cases src <;> rfl

/-- SUB and SBC: the carry in is C for SBC and 1 for SUB (R174, R175). -/
theorem exec_subtraction (s : State) (dst : Gpr) (src : Src) (withBorrow : Bool) :
    exec (AluOp.instr (if withBorrow then .sbc else .sub) dst src) s =
      readingFlags (AluOp.reads (if withBorrow then .sbc else .sub)) s
        (withSrc src s fun b t => aluTo dst (subOut (t.readG dst) b (!withBorrow || t.c)) src.len.toNat t) := by
  cases withBorrow with
  | false =>
    refine Eq.trans ?_ (readingFlags_ok (FlagsReadable_none s) _).symm
    cases src <;> rfl
  | true => cases src <;> rfl

/-- Settles O21. -/
theorem addAndAdc : Obligations.AddAndAdc := by
  unfold Obligations.AddAndAdc
  intro s dst src withCarry op i a b cin res
  have hexec : exec i s = _ := exec_addition s dst src withCarry
  have hcin : cin = (withCarry && s.c).toNat := by
    cases withCarry <;> cases hc : s.c <;> simp [cin, hc]
  clear_value cin
  subst hcin
  refine ⟨fun hflags hok => ?completes, fun hflags => ?flagsRefused, fun why hflags hstop => ?srcRefused⟩
  case completes =>
    rw [readingFlags_ok hflags, withSrc_next hok] at hexec
    obtain ⟨hframe, hstore, hpc, hdraws⟩ :=
      aluTo_keeps s (srcDraws s src) dst src.len.toNat (addOut a b (withCarry && s.c))
    rw [ofNat_toNat_addr] at hpc
    rw [draws_add_srcDraws] at hdraws
    exact ⟨_, hexec, aluTo_readG s _ dst _ _, addOut_c a b _, addOut_z a b _, msb_eq_getLsbD _, addOut_v a b _, rfl, hframe,
      hstore, hpc, hdraws⟩
  case flagsRefused => rw [hexec, readingFlags_refused hflags]
  case srcRefused => rw [hexec, readingFlags_ok hflags, withSrc_refused hstop]

/-- Settles O22. -/
theorem subAndSbc : Obligations.SubAndSbc := by
  unfold Obligations.SubAndSbc
  intro s dst src withBorrow op i a b borrow res
  have hexec : exec i s = _ := exec_subtraction s dst src withBorrow
  have hborrow : borrow = 1 - (!withBorrow || s.c).toNat := by
    cases withBorrow <;> cases hc : s.c <;> simp [borrow, hc]
  clear_value borrow
  subst hborrow
  have hres : (subOut a b (!withBorrow || s.c)).res = res := subOut_res a b _
  refine ⟨fun hflags hok => ?completes, fun hflags => ?flagsRefused, fun why hflags hstop => ?srcRefused⟩
  case completes =>
    rw [readingFlags_ok hflags, withSrc_next hok] at hexec
    obtain ⟨hframe, hstore, hpc, hdraws⟩ :=
      aluTo_keeps s (srcDraws s src) dst src.len.toNat (subOut a b (!withBorrow || s.c))
    rw [ofNat_toNat_addr] at hpc
    rw [draws_add_srcDraws] at hdraws
    rw [← hres]
    exact ⟨_, hexec, aluTo_readG s _ dst _ _, subOut_c a b _, subOut_z a b _, msb_eq_getLsbD _, subOut_v a b _, rfl, hframe,
      hstore, hpc, hdraws⟩
  case flagsRefused => rw [hexec, readingFlags_refused hflags]
  case srcRefused => rw [hexec, readingFlags_ok hflags, withSrc_refused hstop]

/-! ### CMP (R230, R231) -/

theorem exec_cmp (s : State) (dst : Gpr) (src : Src) :
    exec (AluOp.instr .cmp dst src) s = withSrc src s (cmpWith dst src.len.toNat) := by
  cases src <;> rfl

theorem subOut_res_true (a b : Word) : (subOut a b true).res = a - b := by
  simpa using subOut_res a b true

theorem subOut_z_iff_eq (a b : Word) : (subOut a b true).flags.z = true ↔ a = b := by
  rw [subOut_z, subOut_res_true]
  exact sub_eq_zero

theorem subOut_n (a b : Word) : (subOut a b true).flags.n = (a - b).msb :=
  congrArg BitVec.msb (subOut_res_true a b)

/-- The sign and the overflow of a difference differ exactly where it is a signed "less than" (R87, R171). -/
theorem subOut_n_ne_v (a b : Word) : (subOut a b true).flags.n ≠ (subOut a b true).flags.v ↔ a.toInt < b.toInt := by
  have hn : (subOut a b true).flags.n = true ↔ (a.toInt - b.toInt).bmod 65536 < 0 := by
    rw [subOut_n, BitVec.msb_eq_toInt, BitVec.toInt_sub, decide_eq_true_iff]
  have hv := subOut_v a b true
  have ha := a.toInt_lt
  have ha' := a.le_toInt
  have hb := b.toInt_lt
  have hb' := b.le_toInt
  rw [Int.bmod_def] at hn
  rw [Ne, Bool.eq_iff_iff, hn, hv]
  simp only [Bool.toNat_true]
  split <;> omega

/-- Settles O23: the eight comparisons are those of equality, of unsigned and of signed "less than". -/
theorem compareConditions : Obligations.CompareConditions := by
  unfold Obligations.CompareConditions
  intro s dst src a b
  refine ⟨fun hok => ?completes, fun why hstop => by rw [exec_cmp, withSrc_refused hstop]⟩
  generalize ht : cmpWith dst src.len.toNat b (s.drawn (srcDraws s src)) = t
  have hz : t.z = true ↔ a = b := by rw [← ht]; exact subOut_z_iff_eq a b
  have hc : t.c = true ↔ b.toNat ≤ a.toNat := by rw [← ht]; exact subOut_c a b true
  have hlt : t.n ≠ t.v ↔ a.toInt < b.toInt := by rw [← ht]; exact subOut_n_ne_v a b
  have hn : t.n = (a - b).getLsbD 15 := by rw [← ht]; exact (subOut_n a b).trans (msb_eq_getLsbD _)
  have htrashed : t.trashed = ⟨false, false, false, false⟩ := by rw [← ht]; rfl
  obtain ⟨hframe, hstore, hpc, hdraws⟩ := cmpWith_keeps s (srcDraws s src) dst src.len.toNat b
  rw [ofNat_toNat_addr] at hpc
  rw [draws_add_srcDraws] at hdraws
  rw [ht] at hframe hstore hpc hdraws
  have hzFalse : t.z = false ↔ a ≠ b := by rw [← Bool.not_eq_true, hz]
  have hge : t.n = t.v ↔ b.toInt ≤ a.toInt := by rw [← Int.not_lt, ← hlt, not_not]
  have heqInt : a = b ↔ a.toInt = b.toInt := BitVec.toInt_inj.symm
  refine ⟨t, ?exec, hz, hzFalse, hc, ?cc, hlt, ?gt, hge, ?le, hn, htrashed, hframe, hstore, hpc, hdraws⟩
  case exec => rw [exec_cmp, withSrc_next hok, ← ht]
  case cc =>
    show t.c = false ↔ _
    rw [← Bool.not_eq_true, hc, Nat.not_le]
  case gt =>
    show t.z = false ∧ t.n = t.v ↔ _
    rw [hzFalse, hge, Ne, heqInt]
    omega
  case le =>
    show t.z = true ∨ t.n ≠ t.v ↔ _
    rw [hz, hlt, heqInt]
    omega

/-! ### AND, OR, XOR and NOT (R190 to R196) -/

/-- The operand of NOT as a second operand: in place, it is the destination. -/
def notSrc (dst : Gpr) : NotSrc → Src
  | .reg g => .reg g
  | .mem n => .mem n
  | .self => .reg dst

theorem notSrc_spec (s : State) (dst : Gpr) (src : NotSrc) :
    ((notSrc dst src).ok s ↔ src.ok s) ∧ (notSrc dst src).stop s = src.stop s ∧ (notSrc dst src).value s = src.value s dst ∧
      (notSrc dst src).draws s = src.draws s ∧ (notSrc dst src).len = 2 := by
  cases src <;> exact ⟨Iff.rfl, rfl, rfl, rfl, rfl⟩

/-- All that a logical instruction does, whose result is `g` of its two operands (R190). -/
theorem logic_completes {i : Instr} {s : State} {dst : Gpr} {src : Src} {g : Word → Word → Word}
    (hexec : exec i s = withSrc src s fun b t => logicTo dst (g (t.readG dst) b) src.len.toNat t) (hok : src.ok s) :
    ∃ t, exec i s = .next t ∧ t.readG dst = keptIn dst (g (s.readG dst) (src.value s)) ∧ t.c = false ∧
      (t.z = true ↔ g (s.readG dst) (src.value s) = 0) ∧ t.n = (g (s.readG dst) (src.value s)).getLsbD 15 ∧ t.v = s.v ∧
      t.trashed = ⟨false, false, false, s.trashed.v⟩ ∧ Frame (· = dst) s t ∧ NoStore s t ∧ t.pc = s.pc + src.len ∧
      t.draws = src.draws s := by
  generalize hw : g (s.readG dst) (src.value s) = w
  obtain ⟨hframe, hstore, hpc, hdraws⟩ := logicTo_keeps s (srcDraws s src) dst src.len.toNat w
  obtain ⟨hv, htrashed⟩ := logicTo_v_trashed s (srcDraws s src) dst src.len.toNat w
  rw [ofNat_toNat_addr] at hpc
  rw [draws_add_srcDraws] at hdraws
  rw [withSrc_next hok] at hexec
  refine ⟨_, hexec.trans ?_, logicTo_readG s (srcDraws s src) dst src.len.toNat w, rfl, beq_iff_eq, msb_eq_getLsbD _, hv, htrashed,
    hframe, hstore, hpc, hdraws⟩
  rw [← hw]
  rfl

/-- Settles O24. -/
theorem logicOps : Obligations.LogicOps := by
  unfold Obligations.LogicOps
  intro s dst src op f hop
  have hlogic : ∃ g : Word → Word → Word,
      (exec (AluOp.instr op dst src) s = withSrc src s fun b t => logicTo dst (g (t.readG dst) b) src.len.toNat t) ∧
        ∀ (x y : Word) (k : Nat), (g x y).getLsbD k = f (x.getLsbD k) (y.getLsbD k) := by
    rcases hop with ⟨rfl, rfl⟩ | ⟨rfl, rfl⟩ | ⟨rfl, rfl⟩
    · exact ⟨(· &&& ·), by cases src <;> rfl, fun _ _ _ => BitVec.getLsbD_and⟩
    · exact ⟨(· ||| ·), by cases src <;> rfl, fun _ _ _ => BitVec.getLsbD_or⟩
    · exact ⟨(· ^^^ ·), by cases src <;> rfl, fun _ _ _ => BitVec.getLsbD_xor⟩
  obtain ⟨g, hexec, hbits⟩ := hlogic
  refine ⟨fun hok => ?_, fun why hstop => by rw [hexec, withSrc_refused hstop]⟩
  obtain ⟨t, ht, hrest⟩ := logic_completes hexec hok
  exact ⟨t, _, ht, fun k _ => hbits _ _ k, hrest⟩

/-- Settles O25. -/
theorem notForms : Obligations.NotForms := by
  unfold Obligations.NotForms
  intro s dst src
  obtain ⟨hok, hstop, hvalue, hdraws, hlen⟩ := notSrc_spec s dst src
  have hexec : exec (notOf dst src) s =
      withSrc (notSrc dst src) s fun b t => logicTo dst (~~~b) (notSrc dst src).len.toNat t := by
    cases src <;> rfl
  rw [← hok, ← hstop, ← hvalue, ← hdraws, ← hlen]
  refine ⟨fun hok => ?_, fun why hstop => by rw [hexec, withSrc_refused hstop]⟩
  obtain ⟨t, ht, hrest⟩ := logic_completes (g := fun _ b => ~~~b) hexec hok
  exact ⟨t, _, ht, fun k hk => by simp [hk], hrest⟩

/-! ### INC and DEC of a pair, LEA (R160 to R165, R180, R181) -/

/-- Settles O26: INC and DEC end as LEA does. -/
theorem incDecPair : Obligations.IncDecPair := by
  unfold Obligations.IncDecPair
  intro s n i
  obtain ⟨hinc, hincRest⟩ := leaTo_spec s n (s.xy n + imm5Addr i) 2
  obtain ⟨hdec, hdecRest⟩ := leaTo_spec s n (s.xy n - imm5Addr i) 2
  refine ⟨⟨_, rfl, ?_, hincRest⟩, ⟨_, rfl, ?_, hdecRest⟩⟩
  · exact (congrArg BitVec.toNat hinc).trans (MemoryRules.toNat_add_imm5Addr _ i)
  · have := i.isLt
    have := (s.xy n).isLt
    refine (congrArg (fun a : Addr => (a.toNat : Int)) hdec).trans ?_
    rw [BitVec.toNat_sub, imm5Addr, BitVec.toNat_setWidth]
    omega

/-- Settles O27. -/
theorem loadEffectiveAddress : Obligations.LoadEffectiveAddress := by
  unfold Obligations.LoadEffectiveAddress
  intro s n src
  obtain ⟨hxy, hflags, hframe, hstore, hpc, hdraws⟩ := leaTo_spec s n (src.addr s) src.len.toNat
  rw [ofNat_toNat_addr] at hpc
  exact ⟨_, by cases src <;> rfl, hxy, hflags, hframe, hstore, hpc, hdraws⟩

end Sys2Proof.AluRules
end

section
/-!
Loads, moves, SWAP and LOOKUP (40_data_movement.md, 44_lookup.md): instructions that write registers and move on.
-/

namespace Sys2Proof.LoadRules

open Sys2Proof.Machine Sys2Proof.Safety Sys2Proof.EndingRules

/-! ### What a register keeps (R22) -/

@[simp] theorem keptIn_byte (g : Gpr) (b : Byte) : keptIn g (b.setWidth 16) = b.setWidth 16 := by
  cases g with
  | d _ | x _ => rfl
  | y _ =>
    rw [keptIn, ← LookupRules.lowFun_eq, lowFun, loByte_bankWord]

theorem keptIn_imm5 (g : Gpr) (i : Imm5) : keptIn g (imm5Word i) = imm5Word i := by
  have hbyte : imm5Word i = (i.setWidth 8).setWidth 16 := by revert i; decide
  rw [hbyte, keptIn_byte]

theorem toNat_imm5Word (i : Imm5) : (imm5Word i).toNat = i.toNat := by
  have := i.isLt
  rw [imm5Word, BitVec.toNat_setWidth, Nat.mod_eq_of_lt (by omega)]

/-! ### Loads of a word and of a byte -/

section Loads

variable {s : State} {a : Addr} (g : Gpr) (len : Addr)

theorem loadWordTo_completes (h : WordReadable s a) : ∃ t, loadWordTo g a len.toNat s = .next t ∧
    RegisterWritten s t g (wordAt s s.draws a) len (drawsAfter s s.draws a) := by
  refine ⟨_, by rw [loadWordTo, readWord_next h]; rfl, ?_⟩
  have hwritten := registerWritten s (drawCount s a) g (wordAt s s.draws a) len.toNat
  rwa [ofNat_toNat_addr, ← drawsAfter_eq] at hwritten

theorem loadWordTo_refused {why : Refusal} (h : readStop s a = some why) :
    loadWordTo g a len.toNat s = .refused why := by
  rw [loadWordTo, (readWord_eq_refused a s why).2 h, Res.bind_refused]

theorem loadByteTo_completes (h : ByteReadable s a) : ∃ t, loadByteTo g a len.toNat s = .next t ∧
    RegisterWritten s t g ((byteAt s s.draws a).setWidth 16) len (byteDrawsAfter s s.draws a) := by
  refine ⟨_, by rw [loadByteTo, readByte_next h]; rfl, ?_⟩
  have hwritten := registerWritten s (byteDraws s a) g ((byteAt s s.draws a).setWidth 16) len.toNat
  rwa [ofNat_toNat_addr, ← byteDrawsAfter_eq] at hwritten

theorem loadByteTo_refused {why : Refusal} (h : byteReadStop s a = some why) :
    loadByteTo g a len.toNat s = .refused why := by
  rw [loadByteTo, (readByte_eq_refused a s why).2 h, Res.bind_refused]

end Loads

theorem exec_loadOf (dst : Gpr) (ea : Ea) (s : State) :
    exec (loadOf dst ea) s = loadWordTo dst (ea.addr s) ea.len.toNat s := by
  cases dst <;> cases ea <;> rfl

theorem exec_loadbOf (r : Idx) (ea : Ea) (s : State) :
    exec (loadbOf r ea) s = loadByteTo (.d r) (ea.addr s) ea.len.toNat s := by
  cases ea <;> rfl

/-- Settles O38: all are one word load to their effective address. -/
theorem wordLoads : Obligations.WordLoads := by
  unfold Obligations.WordLoads
  intro s dst loads
  refine ⟨fun ea => ?_, fun n off => ?_⟩
  · simp only [loads, exec_loadOf]
    exact ⟨loadWordTo_completes dst ea.len, fun why => loadWordTo_refused dst ea.len⟩
  · exact ⟨loadWordTo_completes dst 4, fun why => loadWordTo_refused dst 4⟩

/-- Settles O39: all are one byte load, and a zero-extended byte fits in a Y register. -/
theorem byteLoads : Obligations.ByteLoads := by
  unfold Obligations.ByteLoads
  intro s loads
  have hloads (dst : Gpr) (i : Instr) (a len : Addr) (hexec : exec i s = loadByteTo dst a len.toNat s) :
      loads dst i a len := by
    refine ⟨fun h => ?_, fun why h => hexec.trans (loadByteTo_refused dst len h)⟩
    obtain ⟨t, ht, hreg, hrest⟩ := loadByteTo_completes dst len h
    exact ⟨t, hexec.trans ht, hreg.trans (keptIn_byte dst _), hrest⟩
  exact ⟨fun r ea => hloads (.d r) _ _ _ (exec_loadbOf r ea s), fun dst n off => hloads dst _ _ 4 rfl⟩

/-- Settles O40. -/
theorem loadImmediate : Obligations.LoadImmediate := by
  unfold Obligations.LoadImmediate
  intro s dst i v
  obtain ⟨hreg, hrest⟩ := registerWritten s 0 dst (imm5Word i) 2
  refine ⟨⟨_, rfl, ?_, hrest⟩, ⟨_, rfl, registerWritten s 0 dst v 4⟩⟩
  rw [State.drawn_zero] at hreg
  rw [hreg, keptIn_imm5, toNat_imm5Word]

/-! ### LOADXY (R128) -/

/-- A pair written with no flag changed, where `j` values have been drawn for it. -/
theorem pairWritten (s : State) (j : Nat) (n : Idx) (a : Addr) :
    let t := ((s.drawn j).setXY n a).advance 2
    t.xy n = a ∧ Frame (pairRegs n) s t ∧ FlagsKept s t ∧ NoStore s t ∧ t.pc = s.pc + 2 ∧ t.draws = s.draws + j := by
  refine ⟨by simp, ⟨regsKept_setXY (s.drawn j) n a, ?_⟩, ?_, ?_, rfl, rfl⟩
  · simp [ControlKept]
  · simp [FlagsKept]
  · simp [NoStore]

theorem exec_loadxy (n m : Idx) (s : State) :
    exec (.loadxy n m) s = (read24 (s.xy m) s).bind fun r => .next ((r.2.setXY n r.1).advance 2) := rfl

/-- Settles O41. -/
theorem loadPair : Obligations.LoadPair := by
  unfold Obligations.LoadPair
  intro s n m
  refine ⟨fun h1 h2 => ?_, fun why h => ?_⟩
  · have hread := (read24_eq_next (s.xy m) s _).2 ⟨⟨h1, h2⟩, rfl⟩
    obtain ⟨hxy, hframe, hflags, hstore, hpc, hdraws⟩ := pairWritten s (drawCount s (s.xy m) + drawCount s (s.xy m + 2)) n
      (mkAddr (loByte (wordAt s s.draws (s.xy m))) (wordAt s (drawsAfter s s.draws (s.xy m)) (s.xy m + 2)))
    refine ⟨_, by rw [exec_loadxy, hread]; rfl, hxy, hframe, hflags, hstore, hpc, ?_⟩
    rw [drawsAfter_eq, drawsAfter_eq, Nat.add_assoc]
    exact hdraws
  · rw [exec_loadxy, (read24_eq_refused (s.xy m) s why).2 h, Res.bind_refused]

/-! ### LOOKUP (R200 to R216) -/

theorem toNat_tableAddr (l : LookupAddr) (t : BitVec 7) (w : Word) :
    (tableAddr l t w).toNat = (l.base.toNat + 2 * t.toNat * l.pageStride + w.toNat * l.entryStride) % 2 ^ 24 := by
  rw [tableAddr, BitVec.toNat_add, BitVec.toNat_ofNat, Nat.add_mod_mod, Nat.add_assoc]

/-- Settles O30: LOOKUP of a custom page is a word load from its table (R202). -/
theorem lookupCustom : Obligations.LookupCustom := by
  unfold Obligations.LookupCustom
  intro s t7 n a l ha
  obtain rfl : a = tableAddr l t7 (s.readG (.d n)) := BitVec.eq_of_toNat_eq (ha.trans (toNat_tableAddr l t7 _).symm)
  refine ⟨fun hl => ?_, loadWordTo_completes (.d n) 2, fun why => loadWordTo_refused (.d n) 2⟩
  have := t7.isLt
  have := (s.readG (.d n)).isLt
  rw [ha, hl]
  simp only [Config.default, show (0 : Addr).toNat = 0 from rfl]
  omega

theorem highFun_eq (v : Word) : highFun v = v >>> 8 := by
  have hshift : v >>> 8 = 0#8 ++ hiByte v := BitVec.ushiftRight_eq_extractLsb'_of_lt (by decide)
  rw [hshift, highFun]
  exact BitVec.setWidth_eq_append (by decide)

theorem toNat_mulbFun (v : Word) : (mulbFun v).toNat = (v.toNat / 256) * (v.toNat % 256) := by
  have hhi : (hiByte v).toNat = v.toNat / 256 := by
    have := v.isLt
    rw [hiByte, BitVec.extractLsb'_toNat, Nat.shiftRight_eq_div_pow]
    omega
  have hlo : (loByte v).toNat = v.toNat % 256 := by
    rw [loByte, BitVec.extractLsb'_toNat, Nat.shiftRight_zero]
  have hlt : (hiByte v).toNat * (loByte v).toNat < 256 * 256 := Nat.mul_lt_mul'' (hiByte v).isLt (loByte v).isLt
  rw [mulbFun, BitVec.toNat_ofNat, Nat.mod_eq_of_lt hlt, hhi, hlo]

/-- C as a word. -/
def carryWord (c : Bool) : Word := if c = true then 1 else 0

theorem rolFun_eq (c : Bool) (v : Word) : rolFun c v = v <<< 1 ||| carryWord c := by
  have hshift : v <<< 1 = v.extractLsb' 0 15 ++ 0#1 := BitVec.shiftLeft_eq_concat_of_lt (by decide)
  have hcarry : carryWord c = 0#15 ++ BitVec.ofBool c := by cases c <;> rfl
  rw [hshift, hcarry, BitVec.or_append]
  simp [rolFun]

theorem rorFun_eq (c : Bool) (v : Word) : rorFun c v = v >>> 1 ||| carryWord c <<< 15 := by
  have hshift : v >>> 1 = 0#1 ++ v.extractLsb' 1 15 := BitVec.ushiftRight_eq_extractLsb'_of_lt (by decide)
  have hcarry : carryWord c <<< 15 = BitVec.ofBool c ++ 0#15 := by cases c <;> rfl
  rw [hshift, hcarry, BitVec.or_append]
  simp [rorFun]

/-- Of an unsigned value of 2 or more, the reciprocal is the floor of 65536 over it (R209). -/
theorem recipFun_floor {v : Word} (h : 2 ≤ v.toNat) :
    (recipFun v).toNat * v.toNat ≤ 65536 ∧ 65536 < ((recipFun v).toNat + 1) * v.toNat := by
  have hlt : 65536 / v.toNat < 2 ^ 16 := Nat.div_lt_of_lt_mul (by omega)
  rw [recipFun, if_neg (by omega), if_neg (by omega), BitVec.toNat_ofNat, Nat.mod_eq_of_lt hlt]
  exact ⟨Nat.div_mul_le_self _ _, by rw [Nat.mul_comm]; exact Nat.lt_mul_div_succ _ (by omega)⟩

/-- Settles O29. -/
theorem lookupRotatesAndProducts : Obligations.LookupRotatesAndProducts := by
  unfold Obligations.LookupRotatesAndProducts
  intro s n v cbit does
  have hdoes {w : Word} (i : Instr) (P : Word → Prop) (hexec : exec i s = .next (lookupTo n w s)) (hw : P w) :
      does i P := by
    obtain ⟨t, ht, hreg, hrest⟩ := LookupRules.completesIn_of_lookupTo hexec
    exact ⟨t, ht, hreg.symm ▸ hw, hrest⟩
  refine ⟨?high, ?mulb, fun hc => ⟨?rol, ?ror⟩, fun hc => ⟨?rolRefused, ?rorRefused⟩,
    ?recip⟩
  case high => exact hdoes (.high n) (· = v >>> 8) rfl (highFun_eq v)
  case mulb => exact hdoes (.mulb n) (fun w => w.toNat = _) rfl (toNat_mulbFun v)
  case rol => exact hdoes (.rol n) (· = v <<< 1 ||| cbit) (readingFlags_ok hc _) (rolFun_eq s.c v)
  case ror => exact hdoes (.ror n) (· = v >>> 1 ||| cbit <<< 15) (readingFlags_ok hc _) (rorFun_eq s.c v)
  case rolRefused => exact readingFlags_refused hc _
  case rorRefused => exact readingFlags_refused hc _
  case recip =>
    have hone (h : v.toNat = 1) : recipFun v = Config.recip1 := by rw [recipFun, if_neg (by omega), if_pos h]
    obtain ⟨t, ht, hreg, hrest⟩ := hdoes (.recip n) (· = recipFun v) rfl rfl
    refine ⟨t, ht, ?_, hrest⟩
    rw [hreg]
    exact ⟨recipFun_floor, fun h => if_pos h, hone⟩

/-! ### MOVE (R141 to R143) -/

theorem moveSrcReads_eq (src : MoveSrc) : moveSrcReads src = moveReads src := by cases src <;> rfl

theorem readMoveSrc_eq (s : State) (src : MoveSrc) : s.readMoveSrc 2 src = moveValue s src := by
  have hpc : s.pcBase 2 = pcValue s 2 := pcBase_toNat s 2
  cases src with
  | pch | pcl => simp only [State.readMoveSrc, moveValue, hpc]
  | x _ | y _ | sr => rfl

theorem exec_moveS (dst : MoveDst) (src : MoveSrc) (s : State) :
    exec (.moveS dst src) s = readingFlags (moveReads src) s (.next (s.finishMove 2 dst (moveValue s src))) := by
  rw [← moveSrcReads_eq, ← readMoveSrc_eq]
  rfl

/-- Settles O46. -/
theorem moveToRegister : Obligations.MoveToRegister := by
  unfold Obligations.MoveToRegister
  intro s dst moves
  have hmoves {i : Instr} {w : Word} (hexec : exec i s = .next (s.finishMove 2 (.gpr dst) w)) : moves i w :=
    ⟨_, hexec, registerWritten s 0 dst w 2⟩
  refine ⟨fun n => hmoves rfl, fun src => ⟨fun h => hmoves ?_, fun h => ?_⟩⟩
  · rw [exec_moveS, readingFlags_ok h]
  · rw [exec_moveS, readingFlags_refused h]

/-- Settles O47. -/
theorem statusRegisterMoves : Obligations.StatusRegisterMoves := by
  unfold Obligations.StatusRegisterMoves
  intro s n
  refine ⟨fun h => ⟨_, readingFlags_ok h _, rfl⟩, ⟨_, rfl, rfl⟩, fun src h =>
      ⟨_, (exec_moveS .sr src s).trans (readingFlags_ok h _), rfl⟩,
    fun dst h => readingFlags_refused h _, ?_, ?_⟩
  all_goals exact EncodingRules.decode_of_encode (by decide) (by decide)

/-! ### SWAP (R144, R145) -/

/-- SWAP writes both registers, of which each was read before (R144); with one register it writes that twice. -/
theorem swapRegs_spec (g h : Gpr) (s : State) :
    (swapRegs g h s).readG g = keptIn g (s.readG h) ∧ (swapRegs g h s).readG h = keptIn h (s.readG g) ∧
      Frame (fun r => r = g ∨ r = h) s (swapRegs g h s) ∧ FlagsKept s (swapRegs g h s) ∧ NoStore s (swapRegs g h s) ∧
      (swapRegs g h s).pc = s.pc + 2 ∧ (swapRegs g h s).draws = s.draws := by
  have hsecond : (swapRegs g h s).readG h = keptIn h (s.readG g) := readG_writeG_self _ h _
  refine ⟨?_, hsecond, ⟨fun r hr => ?_, ?_⟩, FlagFrame.swapRegs_keeps s g h, ?_, ?_, ?_⟩
  · by_cases hgh : g = h
    · subst hgh
      exact hsecond
    · exact (State.readG_writeG_of_ne _ _ hgh).trans (readG_writeG_self s g _)
  · obtain ⟨hg, hh⟩ := not_or.1 hr
    exact (State.readG_writeG_of_ne _ _ hh).trans (State.readG_writeG_of_ne s _ hg)
  all_goals simp [swapRegs, ControlKept, NoStore, State.nextPc]

/-- Settles O49. -/
theorem swapRegisters : Obligations.SwapRegisters := by
  unfold Obligations.SwapRegisters
  intro s swaps
  exact ⟨fun n r => ⟨_, rfl, swapRegs_spec (.d n) (xyGpr r) s⟩, fun a b => ⟨_, rfl, swapRegs_spec (xyGpr a) (xyGpr b) s⟩⟩

end Sys2Proof.LoadRules
end

section
/-!
Conditions, conditional set, branches and jumps (45_compare_scc.md section 2, 46_control_transfer.md sections 2 and 3).
-/

namespace Sys2Proof.TransferRules

open Sys2Proof.Machine Sys2Proof.Safety Sys2Proof.EndingRules

/-! ### Conditions (R87) -/

theorem condReads_eq (c : Cond) : condReads c = condFlags (some c) := by cases c <;> rfl

/-- The machine's test of a condition is that of claims. -/
theorem condHolds_iff (c : Cond) (s : State) : condHolds c s.flags = true ↔ holds s (some c) := by
  cases c <;> simp [condHolds, holds, State.flags]

/-! ### Conditional set (R233, R235) -/

theorem exec_scc (c : Cond) (dst : Gpr) (v : Word) (s : State) :
    exec (sccInstr c dst v) s = readingFlags (condFlags (some c)) s
      (.next ((s.writeG dst (if condHolds c s.flags then 0xFFFF else v)).advance 4)) := by
  rw [← condReads_eq]
  cases c <;> rfl

/-- Settles O31: all eight write the register that the condition picks a value for. -/
theorem conditionalSet : Obligations.ConditionalSet := by
  unfold Obligations.ConditionalSet
  intro s c dst v
  rw [exec_scc]
  refine ⟨fun hflags => ?_, fun hflags => readingFlags_refused hflags _⟩
  obtain ⟨hreg, hrest⟩ := registerWritten s 0 dst (if condHolds c s.flags then 0xFFFF else v) 4
  refine ⟨_, readingFlags_ok hflags _, fun h => ?_, fun h => ?_, hrest⟩
  · exact hreg.trans (congrArg (keptIn dst) (if_pos ((condHolds_iff c s).2 h)))
  · exact hreg.trans (congrArg (keptIn dst) (if_neg (mt (condHolds_iff c s).1 h)))

/-! ### Branches (R241 to R245) -/

/-- The test of a branch: its condition, or none. -/
def taken (s : State) : Option Cond → Bool
  | some c => condHolds c s.flags
  | none => true

theorem taken_iff (s : State) (c : Option Cond) : taken s c = true ↔ holds s c := by
  cases c with
  | none => exact iff_of_true rfl trivial
  | some c => exact condHolds_iff c s

theorem exec_branchShort (c : Option Cond) (i : Imm5) (s : State) :
    exec (branchShortOf i c) s = readingFlags (condFlags c) s
      (.next (if taken s c then s.jump (s.pcBase 2 + imm5Addr i) else s.advance 2)) := by
  cases c with
  | none => exact (readingFlags_ok (FlagsReadable_none s) _).symm
  | some c =>
    rw [← condReads_eq]
    cases c <;> rfl

theorem exec_branchLong (c : Option Cond) (off : Word) (s : State) :
    exec (branchLongOf off c) s = readingFlags (condFlags c) s
      (.next (if taken s c then s.jump (s.eaPc 4 off) else s.advance 4)) := by
  cases c with
  | none => exact (readingFlags_ok (FlagsReadable_none s) _).symm
  | some c =>
    rw [← condReads_eq]
    cases c <;> rfl

/-- A branch is a jump if its condition holds, else goes on. -/
theorem branch_completes {s : State} {i : Instr} {c : Option Cond} {target : Addr} {len : Nat}
    (hexec : exec i s = readingFlags (condFlags c) s (.next (if taken s c then s.jump target else s.advance len)))
    (hflags : FlagsReadable s (condFlags c)) :
    ∃ t, exec i s = .next t ∧ (holds s c → t.pc = target) ∧ (¬ holds s c → t.pc = s.pc + BitVec.ofNat 24 len) ∧
      t = { s with pc := t.pc } := by
  rw [hexec, readingFlags_ok hflags]
  by_cases h : taken s c = true
  · rw [if_pos h]
    exact ⟨_, rfl, fun _ => rfl, fun hnot => absurd ((taken_iff s c).1 h) hnot, rfl⟩
  · rw [if_neg h]
    exact ⟨_, rfl, fun hc => absurd ((taken_iff s c).2 hc) h, fun _ => rfl, rfl⟩

/-- Settles O32, as `branch_completes` with the unsigned offset. -/
theorem shortBranches : Obligations.ShortBranches := by
  unfold Obligations.ShortBranches
  intro s c i
  have hexec := exec_branchShort c i s
  refine ⟨fun hflags => ?_, fun hflags => hexec.trans (readingFlags_refused hflags _)⟩
  obtain ⟨t, ht, htaken, hrest⟩ := branch_completes hexec hflags
  refine ⟨t, ht, fun h => ?_, hrest⟩
  rw [htaken h, MemoryRules.toNat_add_imm5Addr, ← pcBase_toNat]
  rfl

/-- Settles O33, as `branch_completes` with the signed offset. -/
theorem longBranches : Obligations.LongBranches := by
  unfold Obligations.LongBranches
  intro s c off
  have hexec := exec_branchLong c off s
  refine ⟨fun hflags => ?_, fun hflags => hexec.trans (readingFlags_refused hflags _)⟩
  obtain ⟨t, ht, htaken, hrest⟩ := branch_completes hexec hflags
  refine ⟨t, ht, fun h => ?_, hrest⟩
  rw [htaken h, State.eaPc, MemoryRules.toNat_add_signExtend, ← pcBase_toNat]
  rfl

/-! ### Jumps (R247 to R250) and MOVE to PC (R28) -/

theorem sameBank_two (s : State) (v : Word) : s.sameBank 2 v = mkAddr (bankOf (pcValue s 2)) v :=
  congrArg (fun a => mkAddr (bankOf a) v) (pcBase_toNat s 2)

theorem sameBank_four (s : State) (v : Word) : s.sameBank 4 v = mkAddr (bankOf (pcValue s 4)) v :=
  congrArg (fun a => mkAddr (bankOf a) v) (pcBase_toNat s 4)

/-- A MOVE to PC jumps in the bank of PC (R28). -/
theorem finishMove_pcl (s : State) (w : Word) :
    s.finishMove 2 .pcl w = { s with pc := mkAddr (bankOf (pcValue s 2)) w } := by
  rw [← sameBank_two]
  rfl

theorem exec_jmpt (n m : Idx) (s : State) :
    exec (.jmpt n m) s = (readWord (s.eaIdx n m) s).bind fun r => .next (r.2.jump (s.sameBank 2 r.1)) := rfl

/-- Settles O34. -/
theorem jumps : Obligations.Jumps := by
  unfold Obligations.Jumps
  intro s addr off n m
  refine ⟨rfl, ?jmp16, rfl, ?moveD, fun src => ⟨fun h => ?moveS, fun h => ?moveSRefused⟩, fun h => ?jmpt, fun why h => ?jmptRefused⟩
  case jmp16 => exact congrArg (fun a => Host.Outcome.next (s.jump a)) (sameBank_four s off)
  case moveD => exact congrArg Host.Outcome.next (finishMove_pcl s _)
  case moveS =>
    rw [LoadRules.exec_moveS, readingFlags_ok h, finishMove_pcl]
    rfl
  case moveSRefused => rw [LoadRules.exec_moveS, readingFlags_refused h]
  case jmpt =>
    rw [exec_jmpt, readWord_next h, Res.bind_next, sameBank_two, drawsAfter_eq]
    rfl
  case jmptRefused => rw [exec_jmpt, (readWord_eq_refused _ _ _).2 h, Res.bind_refused]

end Sys2Proof.TransferRules
end

section
/-!
Stores (40_data_movement.md section 3): the bytes that each stores, and nothing else.
-/

namespace Sys2Proof.StoreRules

open Sys2Proof.Machine Sys2Proof.Safety Sys2Proof.EndingRules

/-- One word stored (R54). -/
theorem storedWord_spec (s : State) (a : Addr) (v : Word) : StoredWords s (s.storedWord a v) [(a, v)] :=
  StoredWords.snoc (StoredWords.nil rfl rfl rfl : StoredWords s s []) rfl rfl rfl rfl

section Forms

variable {s : State} {a : Addr} (len : Addr)

theorem storeWordAt_completes (h : WordWritable s a) (v : Word) : ∃ t, storeWordAt a v len.toNat s = .next t ∧
    StoredWords s t [(a, v)] ∧ Frame noReg s t ∧ FlagsKept s t ∧ t.pc = s.pc + len ∧ t.draws = s.draws := by
  refine ⟨(s.storedWord a v).advance len.toNat, by rw [storeWordAt, writeWord_next h]; rfl, storedWord_spec s a v,
    ⟨fun _ _ => rfl, ?_⟩, ?_, nextPc_toNat s len, rfl⟩
  · simp [ControlKept]
  · simp [FlagsKept]

theorem storeWordAt_refused {why : Refusal} (h : writeStop s a = some why) (v : Word) :
    storeWordAt a v len.toNat s = .refused why := by
  rw [storeWordAt, (writeWord_eq_refused a v s why).2 h, Res.bind_refused]

theorem storeByteAt_completes (h : ByteWritable s a) (v : Word) : ∃ t, storeByteAt a v len.toNat s = .next t ∧
    StoredByte s t a (loByte v) ∧ Frame noReg s t ∧ FlagsKept s t ∧ t.pc = s.pc + len ∧ t.draws = s.draws := by
  refine ⟨(s.storedByte a (loByte v)).advance len.toNat, by rw [storeByteAt, writeByte_next h]; rfl,
    storedByte_spec s a (loByte v), ⟨fun _ _ => rfl, ?_⟩, ?_, nextPc_toNat s len, rfl⟩
  · simp [ControlKept]
  · simp [FlagsKept]

theorem storeByteAt_refused {why : Refusal} (h : byteWriteStop s a = some why) (v : Word) :
    storeByteAt a v len.toNat s = .refused why := by
  rw [storeByteAt, (writeByte_eq_refused a _ s why).2 h, Res.bind_refused]

end Forms

theorem exec_storeOf (src : Gpr) (ea : Ea) (s : State) :
    exec (storeOf src ea) s = storeWordAt (ea.addr s) (s.readG src) ea.len.toNat s := by
  cases src <;> cases ea <;> rfl

theorem exec_storebOf (r : Idx) (ea : Ea) (s : State) :
    exec (storebOf r ea) s = storeByteAt (ea.addr s) (s.readG (.d r)) ea.len.toNat s := by
  cases ea <;> rfl

/-- Settles O42. -/
theorem wordStores : Obligations.WordStores := by
  unfold Obligations.WordStores
  intro s src stores
  refine ⟨fun ea => ?_, fun n off => ?_⟩
  · simp only [stores, exec_storeOf]
    exact ⟨fun h => storeWordAt_completes ea.len h _, fun why h => storeWordAt_refused ea.len h _⟩
  · exact ⟨fun h => storeWordAt_completes 4 h _, fun why h => storeWordAt_refused 4 h _⟩

/-- Settles O43. -/
theorem byteStores : Obligations.ByteStores := by
  unfold Obligations.ByteStores
  intro s stores
  refine ⟨fun r ea => ?_, fun src n off => ?_⟩
  · simp only [stores, exec_storebOf]
    exact ⟨fun h => storeByteAt_completes ea.len h _, fun why h => storeByteAt_refused ea.len h _⟩
  · exact ⟨fun h => storeByteAt_completes 4 h _, fun why h => storeByteAt_refused 4 h _⟩

/-- Settles O44. -/
theorem storeImmediate : Obligations.StoreImmediate := by
  unfold Obligations.StoreImmediate
  intro s n i v stores
  exact ⟨⟨fun h => storeWordAt_completes 2 h _, fun why h => storeWordAt_refused 2 h _⟩,
    fun h => storeWordAt_completes 4 h _, fun why h => storeWordAt_refused 4 h _⟩

theorem exec_storexy (n m : Idx) (s : State) :
    exec (.storexy n m) s = (write24 (s.xy m) (s.xy n) s).bind fun t => .next (t.advance 2) := rfl

/-- The halves of a pair as the words of its registers (R23). -/
theorem setWidth_bankOf_xy (s : State) (n : Idx) : (bankOf (s.xy n)).setWidth 16 = s.readG (.y n) :=
  congrArg (BitVec.setWidth 16) (bankOf_mkAddr _ _)

theorem offsetOf_xy (s : State) (n : Idx) : offsetOf (s.xy n) = s.readG (.x n) := offsetOf_mkAddr _ _

/-- The two words of a stored pair (R58, R138). -/
theorem storedPair_spec (s : State) (a : Addr) (v w : Word) :
    StoredWords s ((s.storedWord a v).storedWord (a + 2) w) [(a, v), (a + 2, w)] :=
  StoredWords.snoc (storedWord_spec s a v) rfl rfl rfl rfl

/-- Settles O45. -/
theorem storePair : Obligations.StorePair := by
  unfold Obligations.StorePair
  intro s n m
  refine ⟨fun h1 h2 => ?_, fun why h => ?_⟩
  · rw [exec_storexy, (write24_eq_next (s.xy m) (s.xy n) s _).2 ⟨⟨h1, h2⟩, rfl⟩]
    refine ⟨_, rfl, ?_, ⟨fun _ _ => rfl, ?_⟩, ?_, rfl, rfl⟩
    · rw [setWidth_bankOf_xy, offsetOf_xy]
      exact storedPair_spec s (s.xy m) (s.readG (.y n)) (s.readG (.x n))
    · simp [ControlKept]
    · simp [FlagsKept]
  · rw [exec_storexy, (write24_eq_refused _ _ _ _).2 h, Res.bind_refused]

end Sys2Proof.StoreRules
end

section
/-!
Pushes and pops (R14, R270), one after another: the stack pointer, the words stored or read, and what is left unchanged. Of a
sequence of accesses, the first that is refused refuses the instruction.
-/

namespace Sys2Proof.StackRules

open Sys2Proof.Machine Sys2Proof.Safety Sys2Proof.EndingRules

theorem addr_sub62 (a : Addr) : a - 6 - 2 = a - 8 := BitVec.sub_sub a 6 2

theorem addr_add_two_two (a : Addr) : a + 2 + 2 = a + 4 := addr_add22 a

theorem addr_add42 (a : Addr) : a + 4 + 2 = a + 6 := BitVec.add_assoc a 4 2

theorem addr_add62 (a : Addr) : a + 6 + 2 = a + 8 := BitVec.add_assoc a 6 2

/-! ### Pushes -/

/-- The words `ws` have been pushed, from `s` to `t`: the pair `p` is at `b` then, and nothing else is changed. -/
structure Pushed (s t : State) (p : Idx) (b : Addr) (ws : List (Addr × Word)) : Prop where
  stored : StoredWords s t ws
  ptr : t.xy p = b
  regs : RegsKept (pairRegs p) s t
  flags : FlagsKept s t
  control : ControlKept s t
  pc : t.pc = s.pc
  draws : t.draws = s.draws

section Pushes

variable {s t : State} {p : Idx} {a b : Addr} {ws : List (Addr × Word)} {why : Refusal}

theorem pushed_nothing (s : State) (p : Idx) : Pushed s s p (s.xy p) [] where
  stored := StoredWords.nil rfl rfl rfl
  ptr := rfl
  regs _ _ := rfl
  flags := ⟨⟨rfl, rfl, rfl, rfl⟩, rfl⟩
  control := ⟨rfl, rfl, rfl, rfl, rfl⟩
  pc := rfl
  draws := rfl

theorem regsKept_pushed (s : State) (p : Idx) (v : Word) : RegsKept (pairRegs p) s (s.pushed p v) := by
  intro g hg
  obtain ⟨hx, hy⟩ := not_or.1 hg
  rw [State.pushed_readG, if_neg hx, if_neg hy]

theorem Pushed.cfg (h : Pushed s t p b ws) : t.cfg = s.cfg := h.control.2.2.2.2

theorem Pushed.push (h : Pushed s t p b ws) (v : Word) (ha : b - 2 = a) : Pushed s (t.pushed p v) p a (ws ++ [(a, v)]) := by
  have hptr : t.xy p - 2 = a := by rw [h.ptr, ha]
  refine ⟨?_, by rw [State.pushed_xy_self, hptr], RegsKept.trans h.regs (regsKept_pushed t p v), h.flags, h.control, h.pc, h.draws⟩
  rw [← hptr]
  exact StoredWords.append h.stored h.cfg (StoreRules.storedWord_spec (t.setXY p (t.xy p - 2)) (t.xy p - 2) v)

theorem Pushed.push16_next (h : Pushed s t p b ws) (v : Word) (ha : b - 2 = a) (hw : WordWritable s a) :
    push16 p v t = .next (t.pushed p v) := by
  refine (push16_eq_next p v t _).2 ⟨?_, rfl⟩
  rw [h.ptr, ha]
  exact (access_congr h.cfg a).2.1.2 hw

/-- A push in a sequence of accesses of which one is refused. -/
theorem Pushed.bind_refused {α : Type} (h : Pushed s t p b ws) (v : Word) (ha : b - 2 = a) {l : List (Option Refusal)}
    (hstop : firstStop (writeStop s a :: l) = some why) {k : State → Res α}
    (hrest : firstStop l = some why → k (t.pushed p v) = .refused why) : Res.bind (push16 p v t) k = .refused why := by
  rcases firstStop_cons_eq_some.1 hstop with hfirst | ⟨hnone, hlater⟩
  · have hrefused : push16 p v t = .refused why := by
      rw [push16_eq_refused, h.ptr, ha, (access_congr h.cfg a).2.2.2.2.2.1, hfirst]
    rw [hrefused, Res.bind_refused]
  · rw [h.push16_next v ha ((writeStop_eq_none s a).1 hnone), Res.bind_next]
    exact hrest hlater

theorem not_firstStop_nil {P : Prop} (h : firstStop [] = some why) : P := nomatch h

/-- The end of an instruction after its pushes. -/
theorem Pushed.advance (h : Pushed s t p b ws) (len : Addr) :
    StoredWords s (t.advance len.toNat) ws ∧ (t.advance len.toNat).xy p = b ∧ Frame (pairRegs p) s (t.advance len.toNat) ∧
      FlagsKept s (t.advance len.toNat) ∧ (t.advance len.toNat).pc = s.pc + len ∧ (t.advance len.toNat).draws = s.draws :=
  ⟨h.stored, h.ptr, ⟨h.regs, h.control⟩, h.flags, by rw [← h.pc]; exact nextPc_toNat t len, h.draws⟩

/-- One word pushed (R274, R276, R280). -/
theorem pushOne_completes (v : Word) (len : Addr) (hw : WordWritable s (s.xy p - 2)) :
    ∃ t, (Res.bind (push16 p v s) fun t => .next (t.advance len.toNat)) = .next t ∧ StoredWords s t [(s.xy p - 2, v)] ∧
      t.xy p = s.xy p - 2 ∧ Frame (pairRegs p) s t ∧ FlagsKept s t ∧ t.pc = s.pc + len ∧ t.draws = s.draws := by
  have hp := pushed_nothing s p
  rw [hp.push16_next v rfl hw]
  exact ⟨_, rfl, (hp.push v rfl).advance len⟩

end Pushes

/-! ### PUSH (R270 to R283) -/

/-- A PUSH of an operand that is no half of the stack pair. -/
theorem exec_pushOf {p : Idx} {src : PushSrc} (hok : src.ok p) (s : State) :
    exec (pushOf p src) s = readingFlags src.reads s
      (Res.bind (push16 p (src.value s) s) fun t => .next (t.advance src.len.toNat)) := by
  cases src with
  | imm5 i => exact (readingFlags_ok (FlagsReadable_none s) _).symm
  | imm16 v => exact (readingFlags_ok (FlagsReadable_none s) _).symm
  | reg r =>
    have hhalf : ¬ halfOf r p = true := by rw [show halfOf r p = false from hok]; decide
    refine (if_neg hhalf : exec (.pushReg r p) s = _).trans ?_
    cases r <;> rfl

/-- Settles O50. -/
theorem pushWord : Obligations.PushWord := by
  unfold Obligations.PushWord
  intro s p src hok
  rw [exec_pushOf hok]
  refine ⟨fun hflags hw => ?_, fun hflags => readingFlags_refused hflags _, fun why hflags hstop => ?_⟩
  · rw [readingFlags_ok hflags]
    exact pushOne_completes (src.value s) src.len hw
  · rw [readingFlags_ok hflags, (push16_eq_refused p _ s why).2 hstop, Res.bind_refused]

theorem exec_pushD (p : Idx) (s : State) :
    exec (.pushD p) s = Res.bind (push16 p (s.readG (.d .i0)) s) fun t => Res.bind (push16 p (s.readG (.d .i1)) t) fun t =>
      Res.bind (push16 p (s.readG (.d .i2)) t) fun t => Res.bind (push16 p (s.readG (.d .i3)) t) fun t =>
        .next (t.advance 2) := rfl

theorem exec_pushXY {n p : Idx} (hne : n ≠ p) (s : State) :
    exec (.pushXY n p) s = Res.bind (push16 p (s.readG (.x n)) s) fun t => Res.bind (push16 p (s.readG (.y n)) t) fun t =>
      .next (t.advance 2) := if_neg hne

/-- The state after the D group is pushed (R273). -/
def pushedD (s : State) (p : Idx) : State :=
  (((s.pushed p (s.readG (.d .i0))).pushed p (s.readG (.d .i1))).pushed p (s.readG (.d .i2))).pushed p (s.readG (.d .i3))

section Groups

variable {s : State} {p : Idx}

theorem pushed_d0 (s : State) (p : Idx) :
    Pushed s (s.pushed p (s.readG (.d .i0))) p (s.xy p - 2) [(s.xy p - 2, s.readG (.d .i0))] :=
  (pushed_nothing s p).push _ rfl

theorem pushed_d1 (s : State) (p : Idx) :
    Pushed s ((s.pushed p (s.readG (.d .i0))).pushed p (s.readG (.d .i1))) p (s.xy p - 4)
      [(s.xy p - 2, s.readG (.d .i0)), (s.xy p - 4, s.readG (.d .i1))] :=
  (pushed_d0 s p).push _ (addr_sub22 _)

theorem pushed_d2 (s : State) (p : Idx) :
    Pushed s (((s.pushed p (s.readG (.d .i0))).pushed p (s.readG (.d .i1))).pushed p (s.readG (.d .i2))) p (s.xy p - 6)
      [(s.xy p - 2, s.readG (.d .i0)), (s.xy p - 4, s.readG (.d .i1)), (s.xy p - 6, s.readG (.d .i2))] :=
  (pushed_d1 s p).push _ (addr_sub42 _)

theorem pushed_group (s : State) (p : Idx) :
    Pushed s (pushedD s p) p (s.xy p - 8)
      [(s.xy p - 2, s.readG (.d .i0)), (s.xy p - 4, s.readG (.d .i1)), (s.xy p - 6, s.readG (.d .i2)),
        (s.xy p - 8, s.readG (.d .i3))] :=
  (pushed_d2 s p).push _ (addr_sub62 _)

theorem exec_pushD_next (h2 : WordWritable s (s.xy p - 2)) (h4 : WordWritable s (s.xy p - 4))
    (h6 : WordWritable s (s.xy p - 6)) (h8 : WordWritable s (s.xy p - 8)) :
    exec (.pushD p) s = .next ((pushedD s p).advance 2) := by
  rw [exec_pushD, (pushed_nothing s p).push16_next _ rfl h2, Res.bind_next, (pushed_d0 s p).push16_next _ (addr_sub22 _) h4,
    Res.bind_next, (pushed_d1 s p).push16_next _ (addr_sub42 _) h6, Res.bind_next,
    (pushed_d2 s p).push16_next _ (addr_sub62 _) h8, Res.bind_next]
  rfl

end Groups

/-- Settles O51, one push after another. -/
theorem pushGroups : Obligations.PushGroups := by
  unfold Obligations.PushGroups
  intro s n p a
  have hstart := pushed_nothing s p
  refine ⟨fun h2 h4 h6 h8 => ⟨_, exec_pushD_next h2 h4 h6 h8, (pushed_group s p).advance 2⟩, fun why hstop => ?_,
    fun hne => ⟨fun h2 h4 => ?_, fun why hstop => ?_⟩⟩
  · rw [exec_pushD]
    exact hstart.bind_refused _ rfl hstop fun hstop => (pushed_d0 s p).bind_refused _ (addr_sub22 _) hstop fun hstop =>
      (pushed_d1 s p).bind_refused _ (addr_sub42 _) hstop fun hstop =>
        (pushed_d2 s p).bind_refused _ (addr_sub62 _) hstop not_firstStop_nil
  · have hx := hstart.push (s.readG (.x n)) rfl
    rw [exec_pushXY hne, hstart.push16_next _ rfl h2, Res.bind_next, hx.push16_next _ (addr_sub22 _) h4, Res.bind_next]
    exact ⟨_, rfl, (hx.push (s.readG (.y n)) (addr_sub22 _)).advance 2⟩
  · rw [exec_pushXY hne]
    exact hstart.bind_refused _ rfl hstop fun hstop =>
      (hstart.push _ rfl).bind_refused _ (addr_sub22 _) hstop not_firstStop_nil

/-! ### Pops -/

/-- The state after pops that leave the pair `p` at `b` and, in all, `k` values drawn. -/
def poppedTo (s : State) (p : Idx) (b : Addr) (k : Nat) : State := { s with draws := k }.setXY p b

section Pops

variable {s : State} {p : Idx} {b : Addr} {k : Nat} {why : Refusal}

theorem poppedTo_self (s : State) (p : Idx) : poppedTo s p (s.xy p) s.draws = s := by
  simp [poppedTo, State.setXY, State.xy]

theorem xy_poppedTo (s : State) (p : Idx) (b : Addr) (k : Nat) : (poppedTo s p b k).xy p = b := by simp [poppedTo]

theorem regsKept_poppedTo (s : State) (p : Idx) (b : Addr) (k : Nat) : RegsKept (pairRegs p) s (poppedTo s p b k) :=
  regsKept_setXY { s with draws := k } p b

theorem setXY_poppedTo (s : State) (p : Idx) (b c : Addr) (k : Nat) : (poppedTo s p b k).setXY p c = poppedTo s p c k :=
  State.setXY_setXY _ p b c

theorem pop16_poppedTo (h : WordReadable s b) :
    pop16 p (poppedTo s p b k) = .next (wordAt s k b, poppedTo s p (b + 2) (drawsAfter s k b)) := by
  refine (pop16_eq_next p _ _).2 ⟨by rwa [xy_poppedTo], ?_⟩
  rw [xy_poppedTo, drawsAfter_eq]
  exact congrArg (wordAt s k b, ·) (setXY_poppedTo s p b (b + 2) (k + drawCount s b)).symm

theorem pop16_start (h : WordReadable s (s.xy p)) :
    pop16 p s = .next (wordAt s s.draws (s.xy p), poppedTo s p (s.xy p + 2) (drawsAfter s s.draws (s.xy p))) := by
  have hpop := pop16_poppedTo (p := p) (k := s.draws) h
  rwa [poppedTo_self] at hpop

/-- A pop in a sequence of accesses of which one is refused. -/
theorem pop_bind_refused {α : Type} {l : List (Option Refusal)} (hstop : firstStop (readStop s b :: l) = some why)
    {f : Word × State → Res α}
    (hrest : firstStop l = some why → f (wordAt s k b, poppedTo s p (b + 2) (drawsAfter s k b)) = .refused why) :
    Res.bind (pop16 p (poppedTo s p b k)) f = .refused why := by
  rcases firstStop_cons_eq_some.1 hstop with hfirst | ⟨hnone, hlater⟩
  · have hrefused : pop16 p (poppedTo s p b k) = .refused why := by
      rw [pop16_eq_refused, xy_poppedTo]
      exact hfirst
    rw [hrefused, Res.bind_refused]
  · rw [pop16_poppedTo ((readStop_eq_none s b).1 hnone), Res.bind_next]
    exact hrest hlater

theorem pop_start_bind_refused {α : Type} {l : List (Option Refusal)} (hstop : firstStop (readStop s (s.xy p) :: l) = some why)
    {f : Word × State → Res α}
    (hrest : firstStop l = some why →
      f (wordAt s s.draws (s.xy p), poppedTo s p (s.xy p + 2) (drawsAfter s s.draws (s.xy p))) = .refused why) :
    Res.bind (pop16 p s) f = .refused why := by
  have hrefused := pop_bind_refused (p := p) (k := s.draws) hstop hrest
  rwa [poppedTo_self] at hrefused

end Pops

/-! ### POP (R277 to R283) -/

theorem exec_popReg {r : StackReg} {p : Idx} (hhalf : halfOf r p = false) (s : State) :
    exec (.popReg r p) s = Res.bind (pop16 p s) fun w => .next ((w.2.writeStackReg r w.1).advance 2) :=
  if_neg (by rw [hhalf]; decide)

theorem not_pairRegs {g : Gpr} {p : Idx} (hhalf : halfOf (.gpr g) p = false) : ¬ pairRegs p g := by
  rintro (rfl | rfl) <;> simp [halfOf] at hhalf

/-- A pair whose halves are kept is kept. -/
theorem xy_of_regsKept {P : Gpr → Prop} {s t : State} {p : Idx} (h : RegsKept P s t) (hx : ¬ P (.x p)) (hy : ¬ P (.y p)) :
    t.xy p = s.xy p := by
  have hX : t.x.get p = s.x.get p := h (.x p) hx
  have hY : t.y.get p = s.y.get p := by simpa only [State.readG, loByte_bankWord] using congrArg loByte (h (.y p) hy)
  rw [State.xy, State.xy, hX, hY]

/-- Settles O52. -/
theorem popWord : Obligations.PopWord := by
  unfold Obligations.PopWord
  intro s p w
  refine ⟨fun h => ⟨fun g hhalf => ?gpr, ?sr⟩, fun r why hhalf hstop => ?refused⟩
  case refused => rw [exec_popReg hhalf, (pop16_eq_refused p s why).2 hstop, Res.bind_refused]
  case gpr =>
    obtain ⟨hreg, ⟨hregs, hcontrol⟩, hflags, hstore, hpc, hdraws⟩ :=
      registerWritten (poppedTo s p (s.xy p + 2) (drawsAfter s s.draws (s.xy p))) 0 g w 2
    have hnot := not_pairRegs hhalf
    refine ⟨_, by rw [exec_popReg hhalf, pop16_start h, Res.bind_next]; rfl, hreg, ?_, ⟨fun r hr => ?_, hcontrol⟩, hflags, hstore,
      hpc, hdraws⟩
    · exact (xy_of_regsKept hregs (fun e => hnot (.inl e.symm)) fun e => hnot (.inr e.symm)).trans (xy_poppedTo _ _ _ _)
    · obtain ⟨hg, hp⟩ := not_or.1 hr
      exact (hregs r hg).trans (regsKept_poppedTo _ _ _ _ r hp)
  case sr =>
    refine ⟨((poppedTo s p (s.xy p + 2) (drawsAfter s s.draws (s.xy p))).writeSr w).advance 2,
      by rw [exec_popReg rfl, pop16_start h, Res.bind_next]; rfl, rfl, rfl, rfl, rfl, rfl, xy_poppedTo _ _ _ _,
      ⟨regsKept_poppedTo s p (s.xy p + 2) _, ⟨rfl, rfl, rfl, rfl, rfl⟩⟩, ⟨fun _ => rfl, rfl, rfl⟩, rfl, rfl⟩

theorem exec_popD (p : Idx) (s : State) :
    exec (.popD p) s = Res.bind (pop16 p s) fun w3 => Res.bind (pop16 p w3.2) fun w2 => Res.bind (pop16 p w2.2) fun w1 =>
      Res.bind (pop16 p w1.2) fun w0 => .next ({ w0.2 with d := ⟨w0.1, w1.1, w2.1, w3.1⟩ }.advance 2) := rfl

theorem exec_popXY {n p : Idx} (hne : n ≠ p) (s : State) :
    exec (.popXY n p) s = Res.bind (pop16 p s) fun hi => Res.bind (pop16 p hi.2) fun lo =>
      .next ((lo.2.setXY n (mkAddr (loByte hi.1) lo.1)).advance 2) := if_neg hne

/-- The state after the D group is popped from the words at `a` and above, where `k0` to `k3` values have been drawn before each
and `k` in all (R277). -/
def poppedD (s : State) (p : Idx) (a : Addr) (k0 k1 k2 k3 k : Nat) : State :=
  { poppedTo s p (a + 8) k with
    d := ⟨wordAt s k3 (a + 6), wordAt s k2 (a + 4), wordAt s k1 (a + 2), wordAt s k0 a⟩ }

theorem exec_popD_next {s : State} {p : Idx} {a : Addr} {k1 k2 k3 : Nat} (ha : s.xy p = a) (h0 : WordReadable s a)
    (h2 : WordReadable s (a + 2)) (h4 : WordReadable s (a + 4)) (h6 : WordReadable s (a + 6))
    (hk1 : drawsAfter s s.draws a = k1) (hk2 : drawsAfter s k1 (a + 2) = k2) (hk3 : drawsAfter s k2 (a + 4) = k3) :
    exec (.popD p) s = .next ((poppedD s p a s.draws k1 k2 k3 (drawsAfter s k3 (a + 6))).advance 2) := by
  subst ha hk1 hk2 hk3
  rw [exec_popD, pop16_start h0, Res.bind_next, pop16_poppedTo h2, Res.bind_next]
  dsimp only
  rw [addr_add_two_two, pop16_poppedTo h4, Res.bind_next]
  dsimp only
  rw [addr_add42, pop16_poppedTo h6, Res.bind_next]
  dsimp only
  rw [addr_add62]
  rfl

/-- Settles O53, one pop after another. -/
theorem popGroups : Obligations.PopGroups := by
  unfold Obligations.PopGroups
  intro s n p a k1 k2 k3
  refine ⟨fun h0 h2 h4 h6 => ?_, fun why hstop => ?_, fun hne => ⟨fun h0 h2 => ?_, fun why hstop => ?_⟩⟩
  · refine ⟨_, exec_popD_next rfl h0 h2 h4 h6 rfl rfl rfl, rfl, rfl, rfl, rfl, xy_poppedTo _ _ _ _, ⟨fun r hr => ?_, ?_⟩, ?_, ?_,
      rfl, rfl⟩
    · obtain ⟨hd, hp⟩ := not_or.1 hr
      cases r with
      | d i => exact absurd ⟨i, rfl⟩ hd
      | x _ | y _ => exact regsKept_poppedTo s p (s.xy p + 8) _ _ hp
    · exact ⟨rfl, rfl, rfl, rfl, rfl⟩
    · exact ⟨⟨rfl, rfl, rfl, rfl⟩, rfl⟩
    · exact ⟨fun _ => rfl, rfl, rfl⟩
  · rw [exec_popD]
    refine pop_start_bind_refused hstop fun hstop => pop_bind_refused hstop fun hstop => ?_
    rw [addr_add_two_two]
    refine pop_bind_refused hstop fun hstop => ?_
    rw [addr_add42]
    exact pop_bind_refused hstop not_firstStop_nil
  · refine ⟨((poppedTo s p (a + 4) k2).setXY n (mkAddr (loByte (wordAt s s.draws a)) (wordAt s k1 (a + 2)))).advance 2, ?_, ?_, ?_,
      ⟨fun r hr => ?_, ?_⟩, ?_, ?_, rfl, rfl⟩
    · rw [exec_popXY hne, pop16_start h0, Res.bind_next, pop16_poppedTo h2, Res.bind_next, addr_add_two_two]
    · exact (State.xy_setXY _ n n _).trans (if_pos rfl)
    · exact ((State.xy_setXY _ n p _).trans (if_neg hne.symm)).trans (xy_poppedTo s p (a + 4) k2)
    · obtain ⟨hn, hp⟩ := not_or.1 hr
      exact (regsKept_setXY _ n _ r hn).trans (regsKept_poppedTo s p (a + 4) k2 r hp)
    · exact ⟨rfl, rfl, rfl, rfl, rfl⟩
    · exact ⟨⟨rfl, rfl, rfl, rfl⟩, rfl⟩
    · exact ⟨fun _ => rfl, rfl, rfl⟩
  · rw [exec_popXY hne]
    exact pop_start_bind_refused hstop fun hstop => pop_bind_refused hstop not_firstStop_nil

/-! ### The stack pair itself (R283) -/

/-- Settles O54. -/
theorem selfStackRefused : Obligations.SelfStackRefused := by
  unfold Obligations.SelfStackRefused
  intro s p
  refine ⟨fun r hr => ?_, if_pos rfl, if_pos rfl⟩
  have hhalf : halfOf r p = true := by
    rcases hr with rfl | rfl <;> simp [halfOf]
  exact ⟨if_pos hhalf, if_pos hhalf⟩

/-! ### Words pushed in RAM, which pops read again -/

/-- The words `ws` have been pushed in RAM, from `s` to `t`, which holds them then; the pair `p` is at `b`, and all else but memory
is as in `s`. -/
structure PushedInRam (s t : State) (p : Idx) (b : Addr) (ws : List (Addr × Word)) : Prop where
  eq : t = { s.setXY p b with mem := t.mem }
  holds : ∀ w ∈ ws, MemoryRules.HoldsWord t w.1 w.2

theorem inRam_congr {s t : State} (h : t.cfg = s.cfg) (a : Addr) : InRam t a ↔ InRam s a := by
  unfold InRam State.kind
  rw [h]

theorem storedWord_of_inRam {s : State} {a : Addr} (h : InRam s a) (v : Word) :
    s.storedWord a v = { s with mem := (s.storedWord a v).mem } := by
  obtain ⟨⟨-, hlower⟩, -, hupper⟩ := h
  have hout : outAfter s a v s.out = s.out := by
    rw [outAfter, if_neg (by rintro ⟨hd, -⟩; simp [hlower] at hd), if_neg (by simp [hlower]), if_neg (by rw [hupper]; decide)]
  rw [State.storedWord, hout]

/-- The words at distinct even distances below an address are distinct. -/
theorem wordBase_sub_ne (a : Addr) {c d : Addr} (hc : c.toNat % 2 = 0) (hd : d.toNat % 2 = 0) (hne : c ≠ d) :
    wordBase (a - c) ≠ wordBase (a - d) := by
  intro he
  have hbase := congrArg BitVec.toNat he
  rw [wordBase_toNat, wordBase_toNat, BitVec.toNat_sub, BitVec.toNat_sub] at hbase
  have hne' : c.toNat ≠ d.toNat := fun h => hne (BitVec.eq_of_toNat_eq h)
  have := a.isLt
  have := c.isLt
  have := d.isLt
  omega

/-- A read at `a` completes with the word `v` and draws no value, however many have been drawn. -/
structure ReadsAs (s : State) (a : Addr) (v : Word) : Prop where
  readable : WordReadable s a
  word : ∀ k, wordAt s k a = v
  draws : ∀ k, drawsAfter s k a = k

section RoundTrip

variable {s t : State} {p : Idx} {a b : Addr} {ws : List (Addr × Word)}

theorem pushedInRam_nothing (s : State) (p : Idx) : PushedInRam s s p (s.xy p) [] where
  eq := by simp [State.setXY, State.xy]
  holds _ hw := nomatch hw

theorem PushedInRam.cfg (h : PushedInRam s t p b ws) : t.cfg = s.cfg := by rw [h.eq]; rfl

theorem PushedInRam.ptr (h : PushedInRam s t p b ws) : t.xy p = b := by
  rw [h.eq]
  exact (State.xy_setXY s p p b).trans (if_pos rfl)

theorem PushedInRam.push (h : PushedInRam s t p b ws) (v : Word) (ha : b - 2 = a) (hram : InRam s a)
    (hfresh : ∀ w ∈ ws, wordBase w.1 ≠ wordBase a) : PushedInRam s (t.pushed p v) p a (ws ++ [(a, v)]) := by
  have hramT : InRam (t.setXY p a) a := (inRam_congr (s := s) h.cfg a).2 hram
  have hpushed : t.pushed p v = (t.setXY p a).storedWord a v := by rw [State.pushed, h.ptr, ha]
  refine ⟨?_, fun w hw => ?_⟩
  · rw [hpushed, storedWord_of_inRam hramT]
    have hset : t.setXY p a = { s.setXY p a with mem := t.mem } := by
      rw [h.eq]
      exact congrArg (fun u : State => { u with mem := t.mem }) (State.setXY_setXY s p b a)
    rw [hset]
  · rw [hpushed]
    rcases List.mem_append.1 hw with hold | hnew
    · exact (h.holds w hold).storedWord (s := t.setXY p a) (hfresh w hold) v
    · rw [List.mem_singleton.1 hnew]
      exact MemoryRules.holdsWord_storedWord hramT v

/-- Pops that bring the pair back leave the state before the pushes, but for memory. -/
theorem PushedInRam.poppedTo (h : PushedInRam s t p b ws) : poppedTo t p (s.xy p) s.draws = { s with mem := t.mem } := by
  rw [h.eq]
  simp [StackRules.poppedTo, State.setXY, State.xy]

/-- A pushed word can be read, and is the word that was pushed. -/
theorem PushedInRam.reads (h : PushedInRam s t p b ws) {u : State} (hmem : u.mem = t.mem) (hcfg : u.cfg = t.cfg) {v : Word}
    (hv : (a, v) ∈ ws) (haligned : Aligned s a) (hram : InRam s a) : ReadsAs u a v := by
  have hcfgS : u.cfg = s.cfg := hcfg.trans h.cfg
  have hramU := (inRam_congr hcfgS a).2 hram
  refine ⟨(access_congr hcfgS a).1.2 (MemoryRules.wordReadable_of_inRam haligned hram), fun k => ?_, fun k => ?_⟩
  · refine MemoryRules.wordAt_of_holdsWord hramU ?_ k
    have hheld := h.holds _ hv
    unfold MemoryRules.HoldsWord lowerOf upperOf at hheld ⊢
    rw [hmem, hcfg]
    exact hheld
  · rw [drawsAfter_eq, MemoryRules.drawCount_of_inRam hramU]
    rfl

end RoundTrip

theorem aligned_sub {s : State} {a : Addr} (h : Aligned s a) {c : Addr} (hc : c.toNat % 2 = 0) : Aligned s (a - c) := by
  refine h.imp_left fun heven => ?_
  have := c.isLt
  rw [BitVec.toNat_sub]
  omega

/-- The D group pushed in RAM. -/
theorem pushedInRam_group {s : State} {p : Idx} (h2 : InRam s (s.xy p - 2)) (h4 : InRam s (s.xy p - 4))
    (h6 : InRam s (s.xy p - 6)) (h8 : InRam s (s.xy p - 8)) :
    PushedInRam s (pushedD s p) p (s.xy p - 8)
      [(s.xy p - 2, s.readG (.d .i0)), (s.xy p - 4, s.readG (.d .i1)), (s.xy p - 6, s.readG (.d .i2)),
        (s.xy p - 8, s.readG (.d .i3))] := by
  have hne {c d : Addr} := wordBase_sub_ne (s.xy p) (c := c) (d := d)
  have hd0 := (pushedInRam_nothing s p).push (s.readG (.d .i0)) rfl h2 nofun
  have hd1 := hd0.push (s.readG (.d .i1)) (addr_sub22 _) h4
    (List.forall_mem_singleton.2 (hne (by decide) (by decide) (by decide)))
  have hd2 := hd1.push (s.readG (.d .i2)) (addr_sub42 _) h6
    (List.forall_mem_cons.2 ⟨hne (by decide) (by decide) (by decide),
      List.forall_mem_singleton.2 (hne (by decide) (by decide) (by decide))⟩)
  exact hd2.push (s.readG (.d .i3)) (addr_sub62 _) h8
    (List.forall_mem_cons.2 ⟨hne (by decide) (by decide) (by decide),
      List.forall_mem_cons.2 ⟨hne (by decide) (by decide) (by decide),
        List.forall_mem_singleton.2 (hne (by decide) (by decide) (by decide))⟩⟩)

theorem exec_popD_of_reads {t : State} {p : Idx} {w0 w1 w2 w3 : Word} (h3 : ReadsAs t (t.xy p) w3)
    (h2 : ReadsAs t (t.xy p + 2) w2) (h1 : ReadsAs t (t.xy p + 4) w1) (h0 : ReadsAs t (t.xy p + 6) w0) :
    exec (.popD p) t = .next ({ poppedTo t p (t.xy p + 8) t.draws with d := ⟨w0, w1, w2, w3⟩ }.advance 2) := by
  rw [exec_popD_next rfl h3.readable h2.readable h1.readable h0.readable (h3.draws _) (h2.draws _) (h1.draws _), poppedD, h3.word,
    h2.word, h1.word, h0.word, h0.draws]

/-- Settles O55: RAM holds the pushed words, so the pops read them, and the pair comes back to where it was. -/
theorem pushPopGroupRoundTrip : Obligations.PushPopGroupRoundTrip := by
  unfold Obligations.PushPopGroupRoundTrip
  intro s p haligned h2 h4 h6 h8
  have hwritable {c : Addr} (hc : c.toNat % 2 = 0) := MemoryRules.wordWritable_of_inRam (aligned_sub haligned hc)
  have hpush : exec (.pushD p) s = .next ((pushedD s p).advance 2) :=
    exec_pushD_next (hwritable rfl h2) (hwritable rfl h4) (hwritable rfl h6) (hwritable rfl h8)
  have hram := pushedInRam_group h2 h4 h6 h8
  generalize ht : pushedD s p = t at hpush hram
  have hptr : (t.advance 2).xy p = s.xy p - 8 := hram.ptr
  have hreads {c : Addr} {v : Word} (hc : c.toNat % 2 = 0) (hv : (s.xy p - c, v) ∈ _) :=
    hram.reads (u := t.advance 2) rfl rfl hv (aligned_sub haligned hc)
  have hpop := exec_popD_of_reads (t := t.advance 2) (p := p) (w0 := s.readG (.d .i0)) (w1 := s.readG (.d .i1))
    (w2 := s.readG (.d .i2)) (w3 := s.readG (.d .i3))
  rw [hptr, show s.xy p - 8 + 2 = s.xy p - 6 by bv_omega, show s.xy p - 8 + 4 = s.xy p - 4 by bv_omega,
    show s.xy p - 8 + 6 = s.xy p - 2 by bv_omega, show s.xy p - 8 + 8 = s.xy p by bv_omega] at hpop
  have hdraws : (t.advance 2).draws = s.draws := by rw [← ht]; rfl
  have hback : poppedTo (t.advance 2) p (s.xy p) s.draws = { s with mem := t.mem, pc := s.pc + 2 } :=
    (congrArg (fun u : State => u.advance 2) hram.poppedTo :)
  rw [hdraws, hback] at hpop
  refine ⟨_, _, hpush, hpop (hreads rfl (by simp) h8) (hreads rfl (by simp) h6) (hreads rfl (by simp) h4)
    (hreads rfl (by simp) h2), ?_⟩
  rw [← addr_add_two_two]
  rfl

end Sys2Proof.StackRules
end

section
/-!
Calls and return (46_control_transfer.md section 4).
-/

namespace Sys2Proof.CallRules

open Sys2Proof.Machine Sys2Proof.Safety Sys2Proof.EndingRules Sys2Proof.StackRules

/-! ### The return address on the stack (R251) -/

/-- The state after a return address is pushed on XY3. -/
def pushedPc (s : State) (ret : Addr) : State := (s.pushed .i3 (offsetOf ret)).pushed .i3 ((bankOf ret).setWidth 16)

theorem pushed_pc (s : State) (ret : Addr) :
    Pushed s (pushedPc s ret) .i3 (s.xy .i3 - 4)
      [(s.xy .i3 - 2, offsetOf ret), (s.xy .i3 - 4, (bankOf ret).setWidth 16)] :=
  ((pushed_nothing s .i3).push _ rfl).push _ (addr_sub22 _)

theorem pushedInRam_pc {s : State} (h2 : InRam s (s.xy .i3 - 2)) (h4 : InRam s (s.xy .i3 - 4)) (ret : Addr) :
    PushedInRam s (pushedPc s ret) .i3 (s.xy .i3 - 4)
      [(s.xy .i3 - 2, offsetOf ret), (s.xy .i3 - 4, (bankOf ret).setWidth 16)] :=
  ((pushedInRam_nothing s .i3).push _ rfl h2 nofun).push _ (addr_sub22 _) h4
    (List.forall_mem_singleton.2 (wordBase_sub_ne _ (by decide) (by decide) (by decide)))

/-! ### Calls (R252 to R254) -/

/-- The three calls are one: they differ in target and length. -/
theorem exec_call (s : State) (call : Call) : exec call.instr s = callTo (call.target s) call.len.toNat s := by
  cases call with
  | abs a => rfl
  | page a => exact congrArg (callTo · 4 s) (TransferRules.sameBank_four s a)
  | rel off => exact congrArg (callTo · 4 s) (congrArg (· + off.signExtend 24) (pcBase_toNat s 4))

theorem exec_call_next {s : State} (call : Call) (h2 : WordWritable s (s.xy .i3 - 2)) (h4 : WordWritable s (s.xy .i3 - 4)) :
    exec call.instr s = .next ((pushedPc s (pcValue s call.len)).jump (call.target s)) := by
  rw [exec_call, callTo, pcBase_toNat, (pushPc_eq_next _ _ _).2 ⟨⟨h2, h4⟩, rfl⟩, Res.bind_next]
  rfl

/-- Settles O35. -/
theorem calls : Obligations.Calls := by
  unfold Obligations.Calls
  intro s call ret
  refine ⟨fun h2 h4 => ?_, fun why hstop => ?_⟩
  · have hpushed := pushed_pc s ret
    exact ⟨_, exec_call_next call h2 h4, hpushed.stored, hpushed.ptr, rfl, ⟨hpushed.regs, hpushed.control⟩, hpushed.flags,
      hpushed.draws⟩
  · rw [exec_call, callTo, (pushPc_eq_refused _ _ _).2 hstop, Res.bind_refused]

/-! ### RET (R255) -/

theorem exec_ret (i : Imm5) (s : State) :
    exec (.ret i) s = (popPc s).bind fun r => .next ((r.2.setXY .i3 (r.2.xy .i3 + imm5Addr i)).jump r.1) := rfl

/-- The state after RET to `target`, with `k` values drawn in all. -/
def returned (s : State) (i : Imm5) (target : Addr) (k : Nat) : State :=
  (poppedTo s .i3 (s.xy .i3 + 4 + imm5Addr i) k).jump target

theorem exec_ret_next {s : State} (i : Imm5) (h0 : WordReadable s (s.xy .i3)) (h2 : WordReadable s (s.xy .i3 + 2)) :
    exec (.ret i) s = .next (returned s i
      (mkAddr (loByte (wordAt s s.draws (s.xy .i3))) (wordAt s (drawsAfter s s.draws (s.xy .i3)) (s.xy .i3 + 2)))
      (drawsAfter s (drawsAfter s s.draws (s.xy .i3)) (s.xy .i3 + 2))) := by
  rw [exec_ret, (popPc_eq_next s _).2 ⟨⟨h0, h2⟩, rfl⟩, Res.bind_next]
  dsimp only
  rw [State.xy_setXY, if_pos rfl, State.setXY_setXY, drawsAfter_eq s _ (s.xy .i3 + 2), drawsAfter_eq, Nat.add_assoc]
  rfl

/-- Beside XY3 and `pc`, RET changes nothing (R255). -/
theorem returned_spec (s : State) (i : Imm5) (target : Addr) (k : Nat) :
    (returned s i target k).xy .i3 = s.xy .i3 + 4 + imm5Addr i ∧ Frame (pairRegs .i3) s (returned s i target k) ∧
      FlagsKept s (returned s i target k) ∧ NoStore s (returned s i target k) := by
  refine ⟨xy_poppedTo s .i3 _ k, ⟨regsKept_poppedTo s .i3 _ k, ?_⟩, ?_, ?_⟩
  · exact ⟨rfl, rfl, rfl, rfl, rfl⟩
  · exact ⟨⟨rfl, rfl, rfl, rfl⟩, rfl⟩
  · exact ⟨fun _ => rfl, rfl, rfl⟩

/-- Settles O36 (`Return`). -/
theorem returnFromCall : Obligations.Return := by
  unfold Obligations.Return
  intro s i
  refine ⟨fun h0 h2 => ?_, fun why hstop => ?_⟩
  · have hexec := exec_ret_next i h0 h2
    generalize hk : drawsAfter s (drawsAfter s s.draws (s.xy .i3)) (s.xy .i3 + 2) = k at hexec ⊢
    obtain ⟨hxy, hframe, hflags, hstore⟩ := returned_spec s i
      (mkAddr (loByte (wordAt s s.draws (s.xy .i3))) (wordAt s (drawsAfter s s.draws (s.xy .i3)) (s.xy .i3 + 2))) k
    exact ⟨_, hexec, rfl, hxy, hframe, hflags, hstore, rfl⟩
  · rw [exec_ret, (popPc_eq_refused s why).2 hstop, Res.bind_refused]

theorem exec_ret_of_reads {t : State} {hi lo : Word} (i : Imm5) (h0 : ReadsAs t (t.xy .i3) hi)
    (h2 : ReadsAs t (t.xy .i3 + 2) lo) : exec (.ret i) t = .next (returned t i (mkAddr (loByte hi) lo) t.draws) := by
  rw [exec_ret_next i h0.readable h2.readable, h0.word, h2.word, h0.draws, h2.draws]

/-- Settles O37: RAM holds the two words of the return address, which RET reads. -/
theorem callThenReturn : Obligations.CallThenReturn := by
  unfold Obligations.CallThenReturn
  intro s call i haligned h2 h4
  have hwritable {c : Addr} (hc : c.toNat % 2 = 0) := MemoryRules.wordWritable_of_inRam (aligned_sub haligned hc)
  have hcall := exec_call_next call (hwritable rfl h2) (hwritable rfl h4)
  have hpushed := pushed_pc s (pcValue s call.len)
  have hram := pushedInRam_pc h2 h4 (pcValue s call.len)
  generalize pushedPc s (pcValue s call.len) = t at hcall hpushed hram
  have hptr : (t.jump (call.target s)).xy .i3 = s.xy .i3 - 4 := hram.ptr
  have hreads {c : Addr} {v : Word} (hc : c.toNat % 2 = 0) (hv : (s.xy .i3 - c, v) ∈ _) :=
    hram.reads (u := t.jump (call.target s)) rfl rfl hv (aligned_sub haligned hc)
  have hreturn := exec_ret_of_reads (t := t.jump (call.target s)) (hi := (bankOf (pcValue s call.len)).setWidth 16)
    (lo := offsetOf (pcValue s call.len)) i
  obtain ⟨hxy, ⟨hregs, hcontrol⟩, hflags, -⟩ := returned_spec (t.jump (call.target s)) i (pcValue s call.len)
    (t.jump (call.target s)).draws
  rw [hptr, show s.xy .i3 - 4 + 2 = s.xy .i3 - 2 by bv_omega, loByte_bankWord, mkAddr_bankOf_offsetOf] at hreturn
  rw [hptr, show s.xy .i3 - 4 + 4 = s.xy .i3 by bv_omega] at hxy
  exact ⟨_, _, hcall, hreturn (hreads rfl (by simp) h4) (hreads rfl (by simp) h2), rfl, hxy,
    ⟨RegsKept.trans hpushed.regs hregs, ControlKept.trans hpushed.control hcontrol⟩, FlagsKept.trans hpushed.flags hflags,
    hpushed.draws⟩

end Sys2Proof.CallRules
end

section
/-!
Interrupt entry and return (60_exceptions.md sections 3 and 4, 48_control_interrupt.md section 2).
-/

namespace Sys2Proof.InterruptRules

open Sys2Proof.Machine Sys2Proof.Safety Sys2Proof.StackRules Sys2Proof.CallRules

/-! ### The entry (R314, R316) -/

theorem pushed_frame (s : State) (ret : Addr) :
    Pushed s (s.framePushed ret) .i3 (s.xy .i3 - 6)
      [(s.xy .i3 - 2, offsetOf ret), (s.xy .i3 - 4, (bankOf ret).setWidth 16), (s.xy .i3 - 6, s.srWord)] :=
  (pushed_pc s ret).push s.srWord (addr_sub42 _)

theorem pushedInRam_frame {s : State} (h2 : InRam s (s.xy .i3 - 2)) (h4 : InRam s (s.xy .i3 - 4)) (h6 : InRam s (s.xy .i3 - 6))
    (ret : Addr) :
    PushedInRam s (s.framePushed ret) .i3 (s.xy .i3 - 6)
      [(s.xy .i3 - 2, offsetOf ret), (s.xy .i3 - 4, (bankOf ret).setWidth 16), (s.xy .i3 - 6, s.srWord)] :=
  (pushedInRam_pc h2 h4 ret).push s.srWord (addr_sub42 _) h6
    (List.forall_mem_cons.2 ⟨wordBase_sub_ne _ (by decide) (by decide) (by decide),
      List.forall_mem_singleton.2 (wordBase_sub_ne _ (by decide) (by decide) (by decide))⟩)

/-- The state `u` of an entry's frame, in which the handler at `target` starts with IE = `ie` and, in all, `k` values drawn. -/
def handlerAt (u : State) (ie : Bool) (target : Addr) (k : Nat) : State := { u with ie := ie, pc := target, draws := k }

theorem jump_drawn_eq_handlerAt (u : State) (ie : Bool) (target : Addr) (j : Nat) :
    (({ u with ie := ie } : State).drawn j).jump target = handlerAt u ie target (u.draws + j) := rfl

section Entry

variable {s : State} (ret : Addr) (hflags : FlagsReadable s Flags.all) (h2 : WordWritable s (s.xy .i3 - 2))
  (h4 : WordWritable s (s.xy .i3 - 4)) (h6 : WordWritable s (s.xy .i3 - 6)) (hlow : WordReadable s s.cfg.vectorBase)
  (hhigh : WordReadable s (s.cfg.vectorBase + 2))

include hflags h2 h4 h6 hlow hhigh

theorem interruptEntry_next :
    interruptEntry ret s = .next (handlerAt (s.framePushed ret) (s.ie && !s.cfg.intEntry.clearIe)
      (mkAddr (loByte (wordAt (s.framePushed ret) s.draws s.cfg.vectorBase))
        (wordAt (s.framePushed ret) (drawsAfter s s.draws s.cfg.vectorBase) (s.cfg.vectorBase + 2)))
      (drawsAfter s (drawsAfter s s.draws s.cfg.vectorBase) (s.cfg.vectorBase + 2))) := by
  refine (interruptEntry_eq_next ret s _).2 ⟨hflags, ⟨h2, h4, h6⟩, ⟨hlow, hhigh⟩, ?_⟩
  rw [jump_drawn_eq_handlerAt, State.framePushed_draws]
  simp only [drawsAfter_eq, Nat.add_assoc]

/-- All that a completed entry does, in the terms of claims. -/
theorem interruptEntry_completes :
    ∃ t, interruptEntry ret s = .next t ∧
      StoredWords s t [(s.xy .i3 - 2, offsetOf ret), (s.xy .i3 - 4, (bankOf ret).setWidth 16), (s.xy .i3 - 6, s.srWord)] ∧
      t.xy .i3 = s.xy .i3 - 6 ∧ RegsKept (pairRegs .i3) s t ∧ FlagsKept s t ∧ t.ie = (s.ie && !s.cfg.intEntry.clearIe) ∧
      t.pc = mkAddr (loByte (wordAt t s.draws s.cfg.vectorBase))
        (wordAt t (drawsAfter s s.draws s.cfg.vectorBase) (s.cfg.vectorBase + 2)) ∧
      t.halted = s.halted ∧ t.haltCode = s.haltCode ∧ t.irq = s.irq ∧
      t.draws = drawsAfter s (drawsAfter s s.draws s.cfg.vectorBase) (s.cfg.vectorBase + 2) ∧ t.cfg = s.cfg := by
  have hentry := interruptEntry_next ret hflags h2 h4 h6 hlow hhigh
  obtain ⟨hstored, hptr, hregs, hkept, ⟨-, hhalted, hcode, hirq, hcfg⟩, -, -⟩ := pushed_frame s ret
  generalize s.framePushed ret = u at hentry hstored hptr hregs hkept hhalted hcode hirq hcfg
  exact ⟨_, hentry, hstored, hptr, hregs, hkept, rfl, rfl, hhalted, hcode, hirq, rfl, hcfg⟩

end Entry

theorem interruptEntry_trashed {s : State} (ret : Addr) (hflags : ¬ FlagsReadable s Flags.all) :
    interruptEntry ret s = .refused .trashedFlag :=
  (interruptEntry_eq_refused ret s _).2 (.inl ⟨hflags, rfl⟩)

theorem interruptEntry_refused {s : State} (ret : Addr) {why : Refusal} (hflags : FlagsReadable s Flags.all)
    (hstop : firstStop [writeStop s (s.xy .i3 - 2), writeStop s (s.xy .i3 - 4), writeStop s (s.xy .i3 - 6),
      readStop s s.cfg.vectorBase, readStop s (s.cfg.vectorBase + 2)] = some why) :
    interruptEntry ret s = .refused why :=
  (interruptEntry_eq_refused ret s why).2 (.inr ⟨hflags, hstop⟩)

/-- At a boundary where an interrupt is accepted, the step is the entry (R313); a halted machine that an interrupt wakes goes on. -/
theorem step_of_accepts {s : State} (hrunning : s.halted = false ∨ s.cfg.haltWake = .interrupt) (hie : s.ie = true)
    (hline : s.irqNow ≠ 0) : step s = endStep (interruptEntry s.pc { s with halted := false }) := by
  have haccepts : s.accepts = true := by
    rw [State.accepts, hie, bne_iff_ne.2 hline]
    rcases hrunning with h | h <;> simp [h]
  rw [step, atBoundary, if_pos haccepts]

/-- Settles O8: the step is the entry from the state that is not halted. -/
theorem interruptTaken : Obligations.InterruptTaken := by
  unfold Obligations.InterruptTaken
  intro s hrunning hie hline b k1
  have hstep := step_of_accepts hrunning hie hline
  refine ⟨fun hflags h2 h4 h6 hlow hhigh => ?_, fun hflags => ?_, fun why hflags hstop => ?_⟩
  · obtain ⟨t, ht, hstored, hptr, hregs, hkept, htie, hpc, hhalted, hcode, hirq, hdraws, hcfg⟩ :=
      interruptEntry_completes (s := { s with halted := false }) s.pc hflags h2 h4 h6 hlow hhigh
    rw [ht] at hstep
    rw [hie, Bool.true_and] at htie
    exact ⟨t.tick, hstep, hstored, hptr, hregs, hkept, htie, hpc, hhalted, hcode, hdraws, congrArg List.tail hirq, hcfg⟩
  · rw [hstep, interruptEntry_trashed (s := { s with halted := false }) s.pc hflags]
    rfl
  · rw [hstep, interruptEntry_refused (s := { s with halted := false }) s.pc hflags hstop]
    rfl

/-- INT is the entry, with PC as its return address (R297). -/
theorem exec_int {s : State} (hin : s.cfg.intEntry.inStream = true) :
    exec .int s = interruptEntry (pcValue s 2) s := by
  rw [← EndingRules.pcBase_toNat]
  exact if_pos hin

/-- Settles O9. -/
theorem intEnters : Obligations.IntEnters := by
  unfold Obligations.IntEnters
  intro s b k1 ret
  refine ⟨fun hin => ?_, fun hout => if_neg (by rw [hout]; decide)⟩
  rw [exec_int hin]
  exact ⟨interruptEntry_completes ret, interruptEntry_trashed ret, fun why => interruptEntry_refused ret⟩

/-! ### The return (R296, R318) -/

/-- The state after a return to `target` with the status word `sr` popped and, in all, `k` values drawn. -/
def resumed (s : State) (sr : Word) (target : Addr) (k : Nat) : State :=
  { (poppedTo s .i3 (s.xy .i3 + 6) k).writeSr sr with
    ie := if s.cfg.intEntry.restoreIe then sr.getLsbD 7 else s.ie
    pc := target }

theorem resumed_spec (s : State) (sr : Word) (target : Addr) (k : Nat) :
    (resumed s sr target k).xy .i3 = s.xy .i3 + 6 ∧ RegsKept (pairRegs .i3) s (resumed s sr target k) ∧
      NoStore s (resumed s sr target k) :=
  ⟨xy_poppedTo s .i3 _ k, regsKept_poppedTo s .i3 _ k, fun _ => rfl, rfl, rfl⟩

theorem mkAddr_even (b : Byte) (w : Word) : (mkAddr b w).toNat % 2 = 0 ↔ w.getLsbD 0 = false := by
  rw [MemoryRules.toNat_mkAddr, BitVec.getLsbD, Nat.testBit_zero, decide_eq_false_iff_not]
  omega

theorem exec_rti_next {s : State} (h0 : WordReadable s (s.xy .i3)) (h2 : WordReadable s (s.xy .i3 + 2))
    (h4 : WordReadable s (s.xy .i3 + 4)) {k1 k2 : Nat} (hk1 : drawsAfter s s.draws (s.xy .i3) = k1)
    (hk2 : drawsAfter s k1 (s.xy .i3 + 2) = k2)
    (haligned : Aligned s (mkAddr (loByte (wordAt s k1 (s.xy .i3 + 2))) (wordAt s k2 (s.xy .i3 + 4)))) :
    exec .rti s = .next (resumed s (wordAt s s.draws (s.xy .i3))
      (mkAddr (loByte (wordAt s k1 (s.xy .i3 + 2))) (wordAt s k2 (s.xy .i3 + 4))) (drawsAfter s k2 (s.xy .i3 + 4))) := by
  subst hk1 hk2
  refine (interruptReturn_eq_next s _).2 ⟨⟨h0, h2, h4⟩, haligned, ?_⟩
  simp only [drawsAfter_eq, Nat.add_assoc]
  rfl

/-- Settles O59. -/
theorem returnFromInterrupt : Obligations.ReturnFromInterrupt := by
  unfold Obligations.ReturnFromInterrupt
  intro s a k1 k2 sr lo
  refine ⟨fun h0 h2 h4 => ⟨fun hpc => ?_, fun hodd hrefuse => ?_⟩, fun why hstop => ?_⟩
  · have hexec := exec_rti_next h0 h2 h4 rfl rfl (hpc.imp_left (mkAddr_even _ _).2)
    obtain ⟨hptr, hregs, hstore⟩ := resumed_spec s sr (mkAddr (loByte (wordAt s k1 (a + 2))) lo) (drawsAfter s k2 (a + 4))
    exact ⟨_, hexec, rfl, rfl, rfl, rfl, rfl, rfl, rfl, hptr, hregs, hstore, rfl, rfl, rfl, rfl, rfl⟩
  · refine (interruptReturn_eq_refused s _).2 (.inr ⟨⟨h0, h2, h4⟩, ?_, rfl⟩)
    rintro (heven | hignore)
    · exact absurd ((mkAddr_even _ _).1 heven) (by rw [hodd]; decide)
    · exact absurd (hrefuse.symm.trans hignore) (by decide)
  · exact (interruptReturn_eq_refused s why).2 (.inl hstop)

/-! ### Entry and return (R317) -/

/-- The bits of SR as a word (R29). -/
theorem srWord_bits (s : State) :
    s.srWord.getLsbD 0 = s.c ∧ s.srWord.getLsbD 1 = s.z ∧ s.srWord.getLsbD 2 = s.n ∧ s.srWord.getLsbD 3 = s.v ∧
      s.srWord.getLsbD 7 = s.ie := by
  have hsr (i : Nat) : s.sr.getLsbD i = (BitVec.ofBool s.ie ++ levelOf s.irqNow ++ BitVec.ofBool s.v ++ BitVec.ofBool s.n ++
      BitVec.ofBool s.z ++ BitVec.ofBool s.c).getLsbD i := rfl
  simp only [State.srWord, BitVec.getLsbD_setWidth, hsr, BitVec.getLsbD_append]
  simp

theorem exec_rti_of_reads {t : State} {sr hi lo : Word} (h0 : ReadsAs t (t.xy .i3) sr) (h2 : ReadsAs t (t.xy .i3 + 2) hi)
    (h4 : ReadsAs t (t.xy .i3 + 4) lo) (haligned : Aligned t (mkAddr (loByte hi) lo)) :
    exec .rti t = .next (resumed t sr (mkAddr (loByte hi) lo) t.draws) := by
  have hexec := exec_rti_next h0.readable h2.readable h4.readable (h0.draws _) (h2.draws _)
  rw [h0.word, h2.word, h4.word, h4.draws] at hexec
  exact hexec haligned

/-- Settles O60: RAM holds the frame, which RTI reads; the pair comes back, and the flags are the bits of SR. -/
theorem interruptThenReturn : Obligations.InterruptThenReturn := by
  unfold Obligations.InterruptThenReturn
  intro s hpc haligned h2 h4 h6 hlow hhigh hie hflags
  have hwritable {c : Addr} (hc : c.toNat % 2 = 0) := MemoryRules.wordWritable_of_inRam (aligned_sub haligned hc)
  have hentry := interruptEntry_next s.pc hflags (hwritable rfl h2) (hwritable rfl h4) (hwritable rfl h6) hlow hhigh
  have hram := pushedInRam_frame h2 h4 h6 s.pc
  generalize s.framePushed s.pc = f at hentry hram
  generalize mkAddr (loByte (wordAt f _ _)) _ = target, drawsAfter s (drawsAfter s s.draws _) _ = k at hentry
  obtain ⟨t, ht⟩ : ∃ t, handlerAt f (s.ie && !s.cfg.intEntry.clearIe) target k = t := ⟨_, rfl⟩
  have hcfg : t.cfg = s.cfg := by rw [← ht]; exact hram.cfg
  have hptr : t.xy .i3 = s.xy .i3 - 6 := by rw [← ht]; exact hram.ptr
  have hreads {c : Addr} {v : Word} (hc : c.toNat % 2 = 0) (hv : (s.xy .i3 - c, v) ∈ _) :=
    hram.reads (u := t) (by rw [← ht]; rfl) (by rw [← ht]; rfl) hv (aligned_sub haligned hc)
  have hreturn := exec_rti_of_reads (t := t) (sr := s.srWord) (hi := (bankOf s.pc).setWidth 16) (lo := offsetOf s.pc)
  rw [hptr, show s.xy .i3 - 6 + 2 = s.xy .i3 - 4 by bv_omega, show s.xy .i3 - 6 + 4 = s.xy .i3 - 2 by bv_omega, loByte_bankWord,
    mkAddr_bankOf_offsetOf] at hreturn
  have hpcT : Aligned t s.pc := by rwa [Aligned, hcfg]
  refine ⟨t, _, ht ▸ hentry, hreturn (hreads rfl (by simp) h6) (hreads rfl (by simp) h4) (hreads rfl (by simp) h2) hpcT, ?_⟩
  obtain ⟨hc, hz, hn, hv, hbit⟩ := srWord_bits s
  have hback : poppedTo t .i3 (s.xy .i3 - 6 + 6) t.draws =
      handlerAt { s with mem := t.mem } (s.ie && !s.cfg.intEntry.clearIe) target t.draws := by
    rw [show s.xy .i3 - 6 + 6 = s.xy .i3 by bv_omega, ← ht]
    exact congrArg (handlerAt · (s.ie && !s.cfg.intEntry.clearIe) target k) hram.poppedTo
  have hieT : (if t.cfg.intEntry.restoreIe then s.ie else t.ie) = s.ie := by
    rw [hcfg, ← ht]
    rcases hie with hrestore | hkept
    · rw [if_pos hrestore]
    · simp [handlerAt, hkept]
  rw [resumed, hptr, hback, hbit, hieT, State.writeSr, hc, hz, hn, hv]
  rfl

end Sys2Proof.InterruptRules
end
